-- ==== Sys2Proof/Word.lean ====
section
/-! DEFINITION. The word types of the hub: what the manual treats as bits. -/

namespace Sys2Proof

/-- One character of a line, one byte of a frame or of packet memory. -/
abbrev Byte := BitVec 8

/-- A 16-bit frame field, a CRC or a message sequence number. -/
abbrev Half := BitVec 16

/-- A value of the 32-bit tick counter (R93). -/
abbrev Tick := BitVec 32

end Sys2Proof
end

