-- ==== Sys2Proof/Config.lean ====
section
/-! DEFINITION. What the part fixes: its links, straps, sizes and limits, and the names the commands use. -/

namespace Sys2Proof

/-- The four serial links (00, Conventions: Links are named A, B, C and D). -/
inductive Link where
  | a | b | c | d
deriving DecidableEq, Repr

/-- The links in the order A to D. -/
def Link.all : List Link := [.a, .b, .c, .d]

/-- The strapped line speed of all four links (00 pin summary, R121). -/
inductive LineSpeed where
  | bps115200 | bps460800 | bps1000000 | bps3000000
deriving DecidableEq, Repr

/-- The levels of the strap pins as they are sampled at pin reset (00 pin summary, R10, R121). -/
structure Straps where
  speed1 : Bool
  speed0 : Bool
  mgtA : Bool
  mgtB : Bool
  mgtC : Bool
  mgtD : Bool
deriving DecidableEq, Repr

/-- The causes of a receive error (R129; the CRC and length causes stand apart as in R128). -/
inductive ReceiveFault where
  | framing | escape | overlength | shortFrame | crcMismatch | lengthDisagreement
deriving DecidableEq, Repr

namespace Config

/-- Slots of the object table (R1). -/
def objectSlots : Nat := 48
/-- Waiter records one link may own (R46). -/
def waiterQuota : Nat := 24
/-- Places of intake T (R100). -/
def expiryPlaces : Nat := 96
/-- Service slots of one link (R161). -/
def serviceSlots : Nat := 4
/-- Bytes of the packet memory (R67). -/
def packetBytes : Nat := 16384
/-- Bytes of one block of packet memory (R67). -/
def blockBytes : Nat := 64
/-- Most unstuffed bytes of a frame (R123). -/
def maxFrame : Nat := 306
/-- Largest value of the saturating 16-bit counters (R129, R139, R164). -/
def counterMax : Nat := 65535
/-- Family code of the part identity (R143). -/
def familyCode : Byte := 0x51
/-- Revision of the part identity (R143). -/
def revision : Byte := 2
/-- DESIGN CHOICE (log entry 6), unsafe: what a packet-memory byte reads as that nothing has written since pin reset.
The manual says only that the contents have no meaning then (R92). -/
def unwrittenByte : Byte := 0

end Config
end Sys2Proof
end

