-- ==== Sys2Proof/Syntax.lean ====
section
/-! DEFINITION. The commands: one constructor per row of spec/opcode_table.json. -/

namespace Sys2Proof

/-- The commands of the block. An event at one link names the link; an event of the engine names no item, since what it
acts on stands at the head of the intake that the arbiter chooses (R108). ACQUIRE, WAIT and RECEIVE carry the number of tick
events that fall between the engine's reading of the tick and its insert claim, 0 unless given (R97; log entry 27). DESIGN
CHOICE (log entry 1): the table gives no operand fields. -/
inductive Instr where
  /-- RESET_N held low and then high, with the strap levels it samples (R119, R137, R160, R175). -/
  | pinReset (straps : Straps)
  /-- One tick event of the timebase (R93, R138, R151). -/
  | tickEvent
  /-- The timebase moves the entries that are due to intake T (R99). -/
  | deadlineDue
  /-- A keepalive count that a tick event lowered to 0 ends the session (R151). -/
  | keepaliveLapse (l : Link)
  /-- The receive wire has been low for 20 bit times (R132). -/
  | lineBreak (l : Link)
  /-- The receive wire has been high for 10 bit times in SETTLING (R133). -/
  | settlingComplete (l : Link)
  /-- A receive error of the named cause (R129). -/
  | receiveError (l : Link) (cause : ReceiveFault)
  /-- The delimiter that completes an abort mark arrives (R122, R126). -/
  | abortMark (l : Link)
  /-- The delimiter closes a good frame of an unknown kind (R130). -/
  | unknownKind (l : Link)
  /-- The delimiter closes a good HELLO frame (R142, R144, R145). -/
  | hello (l : Link)
  /-- The delimiter closes a good BYE frame (R146). -/
  | bye (l : Link)
  /-- The delimiter closes a good PING frame (R147). -/
  | ping (l : Link)
  /-- The delimiter closes a good LINK_STATUS frame (R148). -/
  | linkStatus (l : Link)
  /-- The delimiter closes a good frame of an engine-bound kind (R150). -/
  | objectRequest (l : Link)
  /-- Steps 2 to 7 of a session end (R154). -/
  | sessionEndTeardown (l : Link)
  /-- The closing delimiter of the frame in transmission has been sent (R170). -/
  | frameComplete (l : Link)
  | createResource
  | createSignal
  | createQueue
  | delete
  | lookup
  | query
  | setAccess
  | reclaim
  /-- The engine takes an ACQUIRE (R29, R30), with `ticks` tick events before its insert claim (R97). -/
  | acquire (ticks : Nat := 0)
  | release
  | signal
  /-- The engine takes a WAIT (R33, R34), with `ticks` tick events before its insert claim (R97). -/
  | wait (ticks : Nat := 0)
  | cancel
  | send
  /-- The engine takes a RECEIVE (R78), with `ticks` tick events before its insert claim (R97). -/
  | receive (ticks : Nat := 0)
  | flush
  | evict
  | hubReset
  /-- The engine takes a "free waiter" completion report (R61). -/
  | freeWaiter
  /-- The engine takes a "spend message" completion report (R82). -/
  | spendMessage
  /-- The engine takes a purge item (R113). -/
  | purge
  /-- The engine takes an expiry item from intake T (R56). -/
  | expiry
  /-- A good character arrives on the link's receive wire (R126). -/
  | goodCharacter (l : Link) (v : Byte)
deriving DecidableEq, Repr

end Sys2Proof
end

