-- ==== Sys2Proof/WellFormed.lean ====
section
/-! DEFINITION. Well-formedness: of a request body for its kind (R178, R179), and of a command. -/

namespace Sys2Proof

/-- The request kinds (R177). -/
inductive ReqKind where
  | hello | bye | ping | linkStatus | evict | hubReset
  | createResource | createSignal | createQueue | delete | lookup | query | setAccess | reclaim
  | acquire | release | signal | wait | cancel
  | send | receive | flush
deriving DecidableEq, Repr

/-- The kind byte of a request (R177). -/
def ReqKind.code : ReqKind → Byte
  | .hello => 0x01 | .bye => 0x02 | .ping => 0x03 | .linkStatus => 0x04 | .evict => 0x05 | .hubReset => 0x06
  | .createResource => 0x10 | .createSignal => 0x11 | .createQueue => 0x12 | .delete => 0x13 | .lookup => 0x14
  | .query => 0x15 | .setAccess => 0x16 | .reclaim => 0x17
  | .acquire => 0x20 | .release => 0x21 | .signal => 0x22 | .wait => 0x23 | .cancel => 0x24
  | .send => 0x30 | .receive => 0x31 | .flush => 0x32

/-- Every request kind, in the order of R177. -/
def ReqKind.all : List ReqKind :=
  [.hello, .bye, .ping, .linkStatus, .evict, .hubReset, .createResource, .createSignal, .createQueue, .delete, .lookup,
   .query, .setAccess, .reclaim, .acquire, .release, .signal, .wait, .cancel, .send, .receive, .flush]

/-- The request kind with a given kind byte; none for every other value, which is UNKNOWN_KIND (R130, R177). -/
def ReqKind.ofCode (b : Byte) : Option ReqKind := ReqKind.all.find? fun k => k.code == b

/-- Whether the kind is one of the engine-bound kinds (R177, class column). -/
def ReqKind.engineBound : ReqKind → Bool
  | .hello | .bye | .ping | .linkStatus => false
  | .evict | .hubReset | .createResource | .createSignal | .createQueue | .delete | .lookup | .query | .setAccess
  | .reclaim | .acquire | .release | .signal | .wait | .cancel | .send | .receive | .flush => true

/-- The offset of the name or label length byte, for the layouts that hold one (R179). -/
def ReqKind.lengthByteAt : ReqKind → Option Nat
  | .hello => some 3
  | .createResource | .createSignal | .createQueue | .lookup => some 0
  | .bye | .ping | .linkStatus | .evict | .hubReset | .delete | .query | .setAccess | .reclaim | .acquire | .release
  | .signal | .wait | .cancel | .send | .receive | .flush => none

/-- The body length of R179 without the name, label or payload bytes. -/
def ReqKind.fixedLength : ReqKind → Nat
  | .hello => 4 | .bye => 0 | .ping => 0 | .linkStatus => 1 | .evict => 1 | .hubReset => 0
  | .createResource => 5 | .createSignal => 5 | .createQueue => 12 | .delete => 2 | .lookup => 1 | .query => 2
  | .setAccess => 3 | .reclaim => 2 | .acquire => 6 | .release => 3 | .signal => 3 | .wait => 5 | .cancel => 1
  | .send => 2 | .receive => 5 | .flush => 2

/-- A request body is well formed for its kind (R178): the length byte, where the layout has one, is at most 8 and the
body has the length the layout gives; for SEND the body length is 2..258. -/
def bodyWellFormed (k : ReqKind) (body : List Byte) : Bool :=
  match k with
  | .send => decide (2 ≤ body.length) && decide (body.length ≤ 258)
  | .hello | .bye | .ping | .linkStatus | .evict | .hubReset | .createResource | .createSignal | .createQueue | .delete
  | .lookup | .query | .setAccess | .reclaim | .acquire | .release | .signal | .wait | .cancel | .receive | .flush =>
    match k.lengthByteAt with
    | none => decide (body.length = k.fixedLength)
    | some off =>
      match body[off]? with
      | none => false
      | some n => decide (n.toNat ≤ 8) && decide (body.length = k.fixedLength + n.toNat)

/-- A command is well formed when its operands are; a link, a character, a strap setting, an error cause and a number of tick
events are of types that hold exactly the values the manual gives them, so every command is. The checks on what a client sends are those of
`bodyWellFormed`. -/
def Instr.wellFormed : Instr → Bool
  | .pinReset _ | .tickEvent | .deadlineDue | .keepaliveLapse _ | .lineBreak _ | .settlingComplete _
  | .receiveError _ _ | .abortMark _ | .unknownKind _ | .hello _ | .bye _ | .ping _ | .linkStatus _ | .objectRequest _
  | .sessionEndTeardown _ | .frameComplete _ | .createResource | .createSignal | .createQueue | .delete | .lookup
  | .query | .setAccess | .reclaim | .acquire _ | .release | .signal | .wait _ | .cancel | .send | .receive _ | .flush
  | .evict | .hubReset | .freeWaiter | .spendMessage | .purge | .expiry | .goodCharacter _ _ => true

end Sys2Proof
end

