-- ==== Sys2Proof/Decode.lean ====
section
/-! DEFINITION. The command a table word spells: no row of spec/opcode_table.json gives bits (log entry 19). -/

namespace Sys2Proof

/-- The command whose table bits are `w`. No row of the table has any, so no word spells a command. -/
def decodeTableWord (_nbits _w : Nat) : Option Instr := none

end Sys2Proof
end

