-- ==== Sys2Proof/Machine/State.lean ====
section
/-! DEFINITION. The state of the hub as plain data, its value after pin reset, and the reasons a step could stop. -/

namespace Sys2Proof.Machine

/-- One value for each link. -/
structure PerLink (α : Type) where
  a : α
  b : α
  c : α
  d : α
deriving DecidableEq, Repr

def PerLink.get {α : Type} (p : PerLink α) : Link → α
  | .a => p.a
  | .b => p.b
  | .c => p.c
  | .d => p.d

def PerLink.set {α : Type} (p : PerLink α) : Link → α → PerLink α
  | .a, x => { p with a := x }
  | .b, x => { p with b := x }
  | .c, x => { p with c := x }
  | .d, x => { p with d := x }

def PerLink.all {α : Type} (x : α) : PerLink α := ⟨x, x, x, x⟩

/-- A set of links: bit 0 is A, bit 1 is B, bit 2 is C, bit 3 is D (R176). -/
abbrev LinkSet := BitVec 4

/-- An arrival stamp (R45): 64 bits in the part, never wrapping; a natural number here (log entry 10). -/
abbrev Stamp := Nat

/-- A handle slot:generation (R4), as a request names it: each 0..255. -/
structure Handle where
  slot : Nat
  gen : Nat
deriving DecidableEq, Repr

/-- Packet memory: the bytes that differ from what an unlisted byte reads as, by rising address. -/
abbrev Memory := List Host.Cell

/-! ### Objects (R1, R21, R23, R69, R71) -/

inductive Discipline where
  | priority | arrival
deriving DecidableEq, Repr

/-- The kind-specific part of a RESOURCE (R21). -/
structure Resource where
  limit : Nat
  available : Nat
  holdings : PerLink Nat
  stranded : Nat
  robust : Bool
  waitList : List Stamp
deriving DecidableEq, Repr

/-- The kind-specific part of a SIGNAL (R23). -/
structure Signal where
  limit : Nat
  count : Nat
  waitList : List Stamp
deriving DecidableEq, Repr

/-- How a claimed payload is carried (R71). -/
inductive Carrier where
  | response | notice
deriving DecidableEq, Repr

structure Claimant where
  link : Link
  session : Nat
  carrier : Carrier
deriving DecidableEq, Repr

inductive MessageState where
  | ready
  | claimed (claimant : Claimant)
  | spent
deriving DecidableEq, Repr

/-- A retained message (R71). Its payload stands in the packet memory at `offset` of the queue's area (R68). -/
structure Message where
  seq : Half
  length : Nat
  offset : Nat
  state : MessageState
  deliveries : Nat
deriving DecidableEq, Repr

/-- The kind-specific part of a QUEUE (R69); bytes used is computed from the messages (R74). -/
structure Queue where
  base : Nat
  blocks : Nat
  maxEntries : Nat
  maxLength : Nat
  threshold : Nat
  companion : Option Handle
  nextSeq : Half
  messages : List Message
  waitList : List Stamp
deriving DecidableEq, Repr

inductive Part where
  | resource (r : Resource)
  | signal (g : Signal)
  | queue (q : Queue)
deriving DecidableEq, Repr

/-- An object in use (R1). -/
structure Obj where
  name : Option (List Byte)
  creator : Link
  access : LinkSet
  discipline : Discipline
  part : Part
deriving DecidableEq, Repr

inductive SlotState where
  | free
  | live (o : Obj)
  | draining (o : Obj)
deriving DecidableEq, Repr

/-- One slot of the object table (R1). -/
structure Slot where
  gen : Nat
  state : SlotState
deriving DecidableEq, Repr

/-! ### Waiters and deadlines (R44, R96) -/

inductive WaitOp where
  | acquire | wait | receive
deriving DecidableEq, Repr

inductive WaiterState where
  | waiting | granted | expired | abandoned
deriving DecidableEq, Repr

/-- A waiter record in use (R44). -/
structure Waiter where
  link : Link
  session : Nat
  tag : Byte
  object : Handle
  op : WaitOp
  amount : Nat
  priority : Nat
  deadline : Option Tick
  stamp : Stamp
  state : WaiterState
  message : Option Half
deriving DecidableEq, Repr

/-- An entry of the deadline list (R96). -/
structure DeadlineEntry where
  stamp : Stamp
  deadline : Tick
deriving DecidableEq, Repr

/-! ### Requests and intake items (R106, R179) -/

/-- The common fields of a CREATE request (R11, R179). -/
structure CreateCommon where
  name : List Byte
  access : Byte
  discipline : Nat
deriving DecidableEq, Repr

/-- An engine-bound request with the fields of its well-formed body (R179; log entry 16). -/
inductive ObjReq where
  | createResource (c : CreateCommon) (limit robust : Nat)
  | createSignal (c : CreateCommon) (limit initial : Nat)
  | createQueue (c : CreateCommon) (base blocks maxEntries maxLength threshold present : Nat) (companion : Handle)
  | delete (h : Handle)
  | lookup (name : List Byte)
  | query (h : Handle)
  | setAccess (h : Handle) (access : Byte)
  | reclaim (h : Handle)
  | acquire (h : Handle) (amount priority timeout : Nat)
  | release (h : Handle) (amount : Nat)
  | signal (h : Handle) (amount : Nat)
  | wait (h : Handle) (priority timeout : Nat)
  | cancel (tag : Byte)
  | send (h : Handle) (payload : List Byte)
  | receive (h : Handle) (priority timeout : Nat)
  | flush (h : Handle)
  | evict (target : Nat)
  | hubReset
deriving DecidableEq, Repr

/-- An object request on an intake (R106): tag, body, the link's session number at the moment of appending, and the service
slot it holds (R161). -/
structure Request where
  tag : Byte
  session : Nat
  slot : Fin 4
  body : ObjReq
deriving DecidableEq, Repr

/-- The reference of a message (R82): queue handle and sequence. -/
structure MessageRef where
  queue : Handle
  seq : Half
deriving DecidableEq, Repr

/-- An item of intakes A to D (R106). -/
inductive Item where
  | request (r : Request)
  | freeWaiter (stamp : Stamp)
  | spendMessage (msg : MessageRef) (session : Nat) (carrier : Carrier)
  | purge
deriving DecidableEq, Repr

/-- A source of the engine's arbiter (R108). -/
inductive Source where
  | link (l : Link)
  | timebase
deriving DecidableEq, Repr

/-! ### Links (R125, R139, R161, R165) -/

inductive AsmState where
  | held | settling | hunt | collecting | escaped
deriving DecidableEq, Repr

inductive SessionState where
  | idle | active | ending
deriving DecidableEq, Repr

/-- The causes of a session end (R153). -/
inductive EndCause where
  | bye | rehello | keepalive | evicted | lineBreak | hubReset
deriving DecidableEq, Repr

/-- The fields of a HELLO (R142, R179), with its tag. -/
structure Hello where
  tag : Byte
  version : Nat
  interval : Nat
  label : List Byte
deriving DecidableEq, Repr

/-- What a transmit item says of its frame (R165); the flags and the CRC are added when transmission begins. -/
structure TxFrame where
  kind : Byte
  tag : Byte
  status : Byte
  body : List Byte
deriving DecidableEq, Repr

/-- The class of a transmit item, with the field its class alone has (R165). -/
inductive TxClass where
  | response (slot : Fin 4)
  | waiterNotice (stamp : Stamp)
  | sessionNotice
deriving DecidableEq, Repr

/-- An item of a transmit list (R165). -/
structure TxItem where
  cls : TxClass
  frame : TxFrame
  session : Option Nat
  msg : Option MessageRef
deriving DecidableEq, Repr

/-- The frame in transmission, that of the head item (R135, R165): whether it carries LOSS, and the characters whose stop
bit has not been sent, the first of them in progress and the last the closing delimiter. -/
structure Transmission where
  loss : Bool
  rest : List Byte
deriving DecidableEq, Repr

/-- Steps 2 to 7 of R154, still to be done: the cause and the tag that SESSION_ENDED will carry (R153), and whether step 2
has already let a frame complete, whose closing delimiter SESSION_ENDED then shares (R135; log entry 14). -/
structure Teardown where
  cause : EndCause
  tag : Byte
  delimiterSent : Bool
deriving DecidableEq, Repr

/-- One link controller. -/
structure LinkState where
  asm : AsmState
  buffer : List Byte
  frameErrors : Nat
  loss : Bool
  session : SessionState
  sessionNo : Nat
  label : List Byte
  keepalive : Nat
  keepaliveCount : Option Nat
  heldHello : Option Hello
  manage : Bool
  sessionsBegun : Nat
  window : Vector (Option Nat) 4
  overruns : Nat
  txList : List TxItem
  tx : Option Transmission
  teardown : Option Teardown
  wire : List Byte
deriving DecidableEq, Repr

/-- The hub: everything the manual gives the part. -/
structure Hub where
  ready : Bool
  speed : LineSpeed
  tick : Tick
  deadlines : List DeadlineEntry
  expiryIntake : List Stamp
  intakes : PerLink (List Item)
  remembered : Source
  stampCounter : Stamp
  slots : Vector Slot 48
  waiters : List Waiter
  packetMemory : Memory
  links : PerLink LinkState
deriving DecidableEq, Repr

/-- The state of the machine: the hub, and the commands that are waiting, first in, first out. -/
structure State extends Hub where
  pending : List Instr
deriving DecidableEq, Repr

/-- Why a step could stop with a fault. The manual names none: the engine has no error state (R111), a damaged frame is
counted and thrown away (R129), and every refused request is answered with a result code (R117). -/
inductive Fault where
deriving DecidableEq, Repr

/-- Why a step could be refused. -/
inductive Refusal where
  /-- Raised by `exec` for a command that has no meaning yet. No arm raises it: every row has its meaning. Safe. -/
  | notModelled (mnemonic : String)
deriving DecidableEq, Repr

/-! ### After pin reset (R19, R65, R92, R104, R119, R137, R138, R160, R175) -/

/-- A link controller right after pin reset, with its strapped MANAGE right (R137, R160, R175). -/
def LinkState.reset (manage : Bool) : LinkState :=
  { asm := .held, buffer := [], frameErrors := 0, loss := false, session := .idle, sessionNo := 0, label := [],
    keepalive := 0, keepaliveCount := none, heldHello := none, manage := manage, sessionsBegun := 0,
    window := Vector.replicate 4 none, overruns := 0, txList := [], tx := none, teardown := none, wire := [] }

/-- The line speed that the speed straps choose (00 pin summary). -/
def Straps.speed (p : Straps) : LineSpeed :=
  match p.speed1, p.speed0 with
  | false, false => .bps115200
  | false, true => .bps460800
  | true, false => .bps1000000
  | true, true => .bps3000000

/-- The hub right after a pin reset that sampled the given straps. -/
def Hub.reset (p : Straps) : Hub :=
  { ready := false, speed := Straps.speed p, tick := 0, deadlines := [], expiryIntake := [], intakes := PerLink.all [],
    remembered := .timebase, stampCounter := 0, slots := Vector.replicate 48 ⟨1, .free⟩, waiters := [],
    packetMemory := [],
    links := ⟨LinkState.reset p.mgtA, LinkState.reset p.mgtB, LinkState.reset p.mgtC, LinkState.reset p.mgtD⟩ }

/-- The strap levels that State.reset takes: all low. DESIGN CHOICE (log entry 5): the manual leaves them to the board. -/
def Straps.low : Straps := ⟨false, false, false, false, false, false⟩

/-- The machine right after reset. -/
def State.reset : State := { toHub := Hub.reset Straps.low, pending := [] }

end Sys2Proof.Machine
end

