-- ==== Sys2Proof/Machine/Formats.lean ====
section
/-! DEFINITION. Codes and byte layouts: byte order, result codes, the CRC, the line coding, frames and their bodies. -/

namespace Sys2Proof.Machine

/-! ### Byte order (00 Conventions: most significant byte first) -/

/-- A count as one byte. -/
def byteOf (n : Nat) : Byte := BitVec.ofNat 8 n

/-- A number as two bytes. -/
def bytes16 (n : Nat) : List Byte := [byteOf (n / 256), byteOf n]

/-- A number as four bytes. -/
def bytes32 (n : Nat) : List Byte := [byteOf (n / 16777216), byteOf (n / 65536), byteOf (n / 256), byteOf n]

/-- The byte at an offset of a body, as a number; 0 past its end, which a well-formed body never reaches (R178). -/
def field (body : List Byte) (off : Nat) : Nat := (body.getD off 0).toNat

/-- The two-byte field at an offset. -/
def field16 (body : List Byte) (off : Nat) : Nat := 256 * field body off + field body (off + 1)

/-- `n` bytes of a body from an offset. -/
def fieldBytes (body : List Byte) (off n : Nat) : List Byte := (body.drop off).take n

/-- The handle at an offset: generation, then slot (R176). -/
def fieldHandle (body : List Byte) (off : Nat) : Handle := { gen := field body off, slot := field body (off + 1) }

def Handle.bytes (h : Handle) : List Byte := [byteOf h.gen, byteOf h.slot]

/-! ### Codes (R117, R176, R177, R180, R182) -/

/-- The result codes (R117). -/
inductive ResultCode where
  | ok | waiting | unavailable | empty | full
  | badHandle | stale | wrongKind | denied | draining | inUse
  | badAmount | notHeld | overflow | tooLong | outOfRange | overlap | nameTaken | notFound
  | noSlot | noWaiter | tagInUse | tooLate
  | noSession | malformed | unknownKind
deriving DecidableEq, Repr

def ResultCode.byte : ResultCode → Byte
  | .ok => 0x00 | .waiting => 0x01 | .unavailable => 0x02 | .empty => 0x03 | .full => 0x04
  | .badHandle => 0x10 | .stale => 0x11 | .wrongKind => 0x12 | .denied => 0x13 | .draining => 0x14 | .inUse => 0x15
  | .badAmount => 0x20 | .notHeld => 0x21 | .overflow => 0x22 | .tooLong => 0x23 | .outOfRange => 0x24
  | .overlap => 0x25 | .nameTaken => 0x26 | .notFound => 0x27
  | .noSlot => 0x30 | .noWaiter => 0x31 | .tagInUse => 0x32 | .tooLate => 0x33
  | .noSession => 0x40 | .malformed => 0x41 | .unknownKind => 0x42

/-- The kind of the response to a frame of a given kind: plus 0x80, modulo 256 (R130, R180). -/
def responseKind (k : Byte) : Byte := k + 0x80

def noticeGrant : Byte := 0xC0
def noticeDeliver : Byte := 0xC1
def noticeExpired : Byte := 0xC2
def noticeAbandoned : Byte := 0xC3
def noticeSessionEnded : Byte := 0xC8

/-- The cause byte of SESSION_ENDED (R176). A session that ends by BREAK sends none; 0 stands for it. -/
def EndCause.byte : EndCause → Byte
  | .bye => 1 | .rehello => 2 | .keepalive => 3 | .evicted => 4 | .hubReset => 5 | .lineBreak => 0

def SessionState.byte : SessionState → Byte
  | .idle => 0 | .active => 1 | .ending => 2

/-- The link byte (R176). -/
def linkNumber : Link → Nat
  | .a => 0 | .b => 1 | .c => 2 | .d => 3

/-- The link that a link byte names, if it names one (R176). -/
def linkOf (n : Nat) : Option Link := Link.all.find? fun l => linkNumber l == n

/-- The rights byte (R176). -/
def rightsByte (manage : Bool) : Byte := if manage then 1 else 0

def Discipline.byte : Discipline → Byte
  | .priority => 0 | .arrival => 1

/-- The discipline that a discipline byte names, if it names one (R176). -/
def disciplineOf (n : Nat) : Option Discipline :=
  if n = 0 then some .priority else if n = 1 then some .arrival else none

/-- The object kind byte (R176). -/
def Part.kindByte : Part → Byte
  | .resource _ => 1 | .signal _ => 2 | .queue _ => 3

/-- The kind of the request an engine-bound request came from (R177). -/
def ObjReq.kind : ObjReq → ReqKind
  | .createResource .. => .createResource | .createSignal .. => .createSignal | .createQueue .. => .createQueue
  | .delete _ => .delete | .lookup _ => .lookup | .query _ => .query | .setAccess .. => .setAccess
  | .reclaim _ => .reclaim | .acquire .. => .acquire | .release .. => .release | .signal .. => .signal
  | .wait .. => .wait | .cancel _ => .cancel | .send .. => .send | .receive .. => .receive | .flush _ => .flush
  | .evict _ => .evict | .hubReset => .hubReset

/-! ### The CRC (R124) -/

/-- One bit of the CRC division: polynomial 0x1021, most significant bit first. -/
def crcBit (c : Half) : Half := if c.msb then (c <<< 1) ^^^ 0x1021 else c <<< 1

/-- Feeds one byte, most significant bit first. -/
def crcByte (c : Half) (b : Byte) : Half := Nat.repeat crcBit 8 (c ^^^ (b.zeroExtend 16 <<< 8))

/-- The CRC of a run of bytes: initial value 0xFFFF, no reflection, no final XOR. -/
def crc (bs : List Byte) : Half := bs.foldl crcByte 0xFFFF

/-! ### The line coding (R122) -/

def delimiter : Byte := 0x9C
def escapeByte : Byte := 0x9D

/-- A delimiter or escape value inside a frame is sent as an escaped pair. -/
def stuffByte (b : Byte) : List Byte :=
  if b = delimiter then [escapeByte, 0xBC] else if b = escapeByte then [escapeByte, 0xBD] else [b]

def stuff (bs : List Byte) : List Byte := bs.flatMap stuffByte

/-! ### Frames (R123, R134, R176) -/

/-- The flags byte of an outbound frame: bit 0 is LOSS (R131). -/
def flagsByte (loss : Bool) : Byte := if loss then 1 else 0

/-- Header and body, the bytes under the CRC. -/
def frameContent (kind tag status flags : Byte) (body : List Byte) : List Byte :=
  [kind, tag, status, flags] ++ bytes16 body.length ++ body

/-- A whole unstuffed frame: header, body and CRC. -/
def frameBytes (kind tag status flags : Byte) (body : List Byte) : List Byte :=
  frameContent kind tag status flags body ++ bytes16 (crc (frameContent kind tag status flags body)).toNat

/-- The unstuffed bytes of an outbound frame (R134). -/
def TxFrame.bytes (f : TxFrame) (loss : Bool) : List Byte := frameBytes f.kind f.tag f.status (flagsByte loss) f.body

/-- A good frame as the assembler hands it on (R130). -/
structure RxFrame where
  kind : Byte
  tag : Byte
  status : Byte
  flags : Byte
  body : List Byte
deriving DecidableEq, Repr

/-- The closing checks (R128), in their order: the first that fails is the cause of a receive error. -/
def closingCheck (buf : List Byte) : Except ReceiveFault RxFrame :=
  if buf.length < 8 then .error .shortFrame
  else if crc (buf.take (buf.length - 2)) ≠ BitVec.ofNat 16 (field16 buf (buf.length - 2)) then .error .crcMismatch
  else if field16 buf 4 ≠ buf.length - 8 then .error .lengthDisagreement
  else .ok { kind := buf.getD 0 0, tag := buf.getD 1 0, status := buf.getD 2 0, flags := buf.getD 3 0,
             body := fieldBytes buf 6 (buf.length - 8) }

/-! ### Response bodies (R180) -/

/-- A name or label with its length byte. -/
def namedBytes (n : List Byte) : List Byte := byteOf n.length :: n

/-- The body of WELCOME (R143, R180). -/
def welcomeBody (sessionNo : Nat) (manage : Bool) (tick : Tick) : List Byte :=
  [byteOf sessionNo, rightsByte manage, byteOf Config.serviceSlots, byteOf Config.waiterQuota, byteOf Config.objectSlots]
    ++ bytes32 tick.toNat ++ [Config.familyCode, Config.revision]

/-- The body of a RECEIVE response and of a DELIVER notice (R180, R182). -/
def payloadBody (h : Handle) (seq : Half) (deliveries : Nat) (payload : List Byte) : List Byte :=
  h.bytes ++ bytes16 seq.toNat ++ [byteOf deliveries] ++ bytes16 payload.length ++ payload

end Sys2Proof.Machine
end

