-- ==== Sys2Proof/Machine/Flags.lean ====
section
/-! DEFINITION. The link's indications and counters, and the small numbers that wrap: LOSS, the saturating counters, session
numbers, generations, tick comparisons. -/

namespace Sys2Proof.Machine

/-- A counter that stops at 65,535 (R129, R139, R164). -/
def saturate16 (n : Nat) : Nat := if n < Config.counterMax then n + 1 else Config.counterMax

/-- A message's deliveries count, which stops at 255 (R71, R79). -/
def saturate8 (n : Nat) : Nat := if n < 255 then n + 1 else 255

/-- The next session number: from 255 it goes to 1 (R140). -/
def nextSessionNo (n : Nat) : Nat := if n < 255 then n + 1 else 1

/-- The next generation: advancing from 255 gives 1 (R3). -/
def nextGen (g : Nat) : Nat := if g < 255 then g + 1 else 1

/-- A deadline is due at a tick value (R95). -/
def tickDue (deadline now : Tick) : Bool := decide ((now - deadline).toNat < 2147483648)

/-- Of two deadlines, the first is earlier (R95). -/
def tickEarlier (d1 d2 : Tick) : Bool :=
  decide (1 ≤ (d2 - d1).toNat) && decide ((d2 - d1).toNat < 2147483648)

/-- A receive error at a link (R129): the frame's bytes are thrown away, the counter rises and LOSS becomes pending. -/
def LinkState.receiveError (k : LinkState) (next : AsmState) : LinkState :=
  { k with asm := next, buffer := [], frameErrors := saturate16 k.frameErrors, loss := true }

/-- An overrun discard (R163): the counter rises and LOSS becomes pending. -/
def LinkState.overrun (k : LinkState) : LinkState := { k with overruns := saturate16 k.overruns, loss := true }

/-- A good frame restarts the keepalive of an ACTIVE link (R151). -/
def LinkState.restartKeepalive (k : LinkState) : LinkState :=
  if k.session = .active ∧ k.keepalive ≠ 0 then { k with keepaliveCount := some k.keepalive } else k

end Sys2Proof.Machine
end

