-- ==== Sys2Proof/Machine/Operands.lean ====
section
/-! DEFINITION. From a good frame to its verdict and its request: the header checks (R130) and the field layouts (R179),
and the checks on operand values that several requests share. -/

namespace Sys2Proof.Machine

/-- A well-formed request (R141): HELLO, a link-answered kind, or an engine-bound request. -/
inductive ClientRequest where
  | hello (h : Hello)
  | bye
  | ping
  | linkStatus (target : Nat)
  | object (r : ObjReq)
deriving DecidableEq, Repr

/-- The common fields of a CREATE request, at the front of its body (R179). -/
def createFields (body : List Byte) : CreateCommon :=
  let n := field body 0
  { name := fieldBytes body 1 n, access := body.getD (1 + n) 0, discipline := field body (2 + n) }

/-- The request that a well-formed body spells (R179). -/
def requestOf (k : ReqKind) (tag : Byte) (body : List Byte) : ClientRequest :=
  let n := field body 0
  match k with
  | .hello => .hello { tag := tag, version := field body 0, interval := field16 body 1,
                       label := fieldBytes body 4 (field body 3) }
  | .bye => .bye
  | .ping => .ping
  | .linkStatus => .linkStatus (field body 0)
  | .evict => .object (.evict (field body 0))
  | .hubReset => .object .hubReset
  | .createResource => .object (.createResource (createFields body) (field body (3 + n)) (field body (4 + n)))
  | .createSignal => .object (.createSignal (createFields body) (field body (3 + n)) (field body (4 + n)))
  | .createQueue =>
    .object (.createQueue (createFields body) (field body (3 + n)) (field body (4 + n)) (field body (5 + n))
      (field16 body (6 + n)) (field body (8 + n)) (field body (9 + n)) (fieldHandle body (10 + n)))
  | .delete => .object (.delete (fieldHandle body 0))
  | .lookup => .object (.lookup (fieldBytes body 1 n))
  | .query => .object (.query (fieldHandle body 0))
  | .setAccess => .object (.setAccess (fieldHandle body 0) (body.getD 2 0))
  | .reclaim => .object (.reclaim (fieldHandle body 0))
  | .acquire => .object (.acquire (fieldHandle body 0) (field body 2) (field body 3) (field16 body 4))
  | .release => .object (.release (fieldHandle body 0) (field body 2))
  | .signal => .object (.signal (fieldHandle body 0) (field body 2))
  | .wait => .object (.wait (fieldHandle body 0) (field body 2) (field16 body 3))
  | .cancel => .object (.cancel (body.getD 0 0))
  | .send => .object (.send (fieldHandle body 0) (body.drop 2))
  | .receive => .object (.receive (fieldHandle body 0) (field body 2) (field16 body 3))
  | .flush => .object (.flush (fieldHandle body 0))

/-- The verdict of the header checks (R130). -/
inductive Verdict where
  | unknownKind
  | malformed
  | wellFormed (r : ClientRequest)
deriving DecidableEq, Repr

/-- The header checks, in their order (R130). -/
def RxFrame.verdict (f : RxFrame) : Verdict :=
  match ReqKind.ofCode f.kind with
  | none => .unknownKind
  | some k =>
    if f.status ≠ 0 ∨ f.flags ≠ 0 then .malformed
    else if bodyWellFormed k f.body then .wellFormed (requestOf k f.tag f.body) else .malformed

/-- The checks on a HELLO's fields (R142): the version is 1, and the interval is 0 or in 100..60,000. -/
def Hello.acceptable (h : Hello) : Bool :=
  decide (h.version = 1) && (decide (h.interval = 0) || (decide (100 ≤ h.interval) && decide (h.interval ≤ 60000)))

/-- A byte that may stand in a name (R7). -/
def nameByteOk (b : Byte) : Bool := decide (0x21 ≤ b.toNat) && decide (b.toNat ≤ 0x7E)

/-- An access byte with any of its upper four bits set names no link set (R9). -/
def accessByteOk (b : Byte) : Bool := decide (b.toNat < 16)

/-- The link set that an access byte names (R176). -/
def linkSetOf (b : Byte) : LinkSet := b.truncate 4

/-- Membership in a link set (R176). -/
def LinkSet.has (s : LinkSet) (l : Link) : Bool := s.getLsbD (linkNumber l)

/-- Priority 0..7 (R29, R33, R78). -/
def priorityOk (p : Nat) : Bool := decide (p ≤ 7)

/-- A timeout the manual allows: 0..60,000 or 65,535 (R49). -/
def timeoutOk (t : Nat) : Bool := decide (t ≤ 60000) || decide (t = 65535)

/-- The deadline of a waiter made at a tick (R50): absent for 65,535, else the tick plus the timeout modulo 2^32. -/
def deadlineOf (now : Tick) (timeout : Nat) : Option Tick :=
  if timeout = 65535 then none else some (now + BitVec.ofNat 32 timeout)

/-- The footprint of a message (R73): 4 bytes of record header and the payload rounded up to a multiple of 4. -/
def footprint (n : Nat) : Nat := 4 + 4 * ((n + 3) / 4)

/-- Two areas share a block (R70). -/
def areasShare (base1 blocks1 base2 blocks2 : Nat) : Bool :=
  decide (base1 < base2 + blocks2) && decide (base2 < base1 + blocks1)

end Sys2Proof.Machine
end

