-- ==== Sys2Proof/Machine/Ops.lean ====
section
/-! DEFINITION. The named operations over packet memory, links, transmit lists, service slots, intakes and the arbiter. -/

namespace Sys2Proof.Machine

/-! ### Packet memory (R67, R68) -/

/-- The byte at an address. -/
def Memory.read : Memory → Nat → Byte
  | [], _ => Config.unwrittenByte
  | (x, v) :: m, addr => if x = addr then v else Memory.read m addr

/-- Writes a byte, keeping the canonical form. -/
def Memory.write : Memory → Nat → Byte → Memory
  | [], addr, v => if v = Config.unwrittenByte then [] else [(addr, v)]
  | (x, w) :: m, addr, v =>
    if addr < x then (if v = Config.unwrittenByte then (x, w) :: m else (addr, v) :: (x, w) :: m)
    else if addr = x then (if v = Config.unwrittenByte then m else (addr, v) :: m)
    else (x, w) :: Memory.write m addr v

/-- Every listed address is above a bound, and the addresses rise strictly. -/
def Memory.risesFrom : Nat → Memory → Bool
  | _, [] => true
  | bound, (x, _) :: m => decide (bound ≤ x) && Memory.risesFrom (x + 1) m

/-- The canonical form: addresses strictly rising, inside the packet memory, and no byte listed that an unlisted address
would read as. -/
def Memory.wf (m : Memory) : Bool :=
  Memory.risesFrom 0 m && m.all fun p => decide (p.1 < Config.packetBytes) && decide (p.2 ≠ Config.unwrittenByte)

/-- The packet-memory address of a byte of a queue's area, counted round the area (R68). Addresses have 14 bits (log
entry 8). -/
def Queue.address (q : Queue) (off : Nat) : Nat :=
  (Config.blockBytes * q.base + off % (Config.blockBytes * q.blocks)) % Config.packetBytes

/-- Writes bytes one after another round a queue's area. -/
def Queue.writeBytes (q : Queue) : Memory → Nat → List Byte → Memory
  | m, _, [] => m
  | m, off, b :: bs => q.writeBytes (m.write (q.address off) b) (off + 1) bs

/-- Reads `n` bytes one after another round a queue's area. -/
def Queue.readBytes (q : Queue) (m : Memory) : Nat → Nat → List Byte
  | _, 0 => []
  | off, n + 1 => m.read (q.address off) :: q.readBytes m (off + 1) n

/-! ### Links -/

namespace Hub

def link (h : Hub) (l : Link) : LinkState := h.links.get l

def setLink (h : Hub) (l : Link) (k : LinkState) : Hub := { h with links := h.links.set l k }

def modLink (h : Hub) (l : Link) (f : LinkState → LinkState) : Hub := h.setLink l (f (h.link l))

/-- The MANAGE right of a link (R10). -/
def manages (h : Hub) (l : Link) : Bool := (h.link l).manage

/-- A link's engine intake (R106). -/
def intake (h : Hub) (l : Link) : List Item := h.intakes.get l

def setIntake (h : Hub) (l : Link) (items : List Item) : Hub := { h with intakes := h.intakes.set l items }

/-- Appends items to a link's engine intake (R106). -/
def appendIntake (h : Hub) (l : Link) (items : List Item) : Hub := h.setIntake l (h.intake l ++ items)

end Hub

/-! ### The service window (R161, R162) -/

namespace LinkState

/-- The lowest-numbered free service slot (R161). -/
def freeSlot (k : LinkState) : Option (Fin 4) :=
  [(0 : Fin 4), 1, 2, 3].find? fun i => k.window[i].isNone

/-- A frame takes a service slot, which records the link's session number (R161). -/
def takeSlot (k : LinkState) (i : Fin 4) : LinkState := { k with window := k.window.set i (some k.sessionNo) }

def releaseSlot (k : LinkState) (i : Fin 4) : LinkState := { k with window := k.window.set i none }

/-- Every service slot is released (R154 step 5, R158 step 4). -/
def releaseAll (k : LinkState) : LinkState := { k with window := Vector.replicate 4 none }

/-- Service slots in use (R149). -/
def slotsInUse (k : LinkState) : Nat := k.window.toList.countP Option.isSome

/-! ### The transmit list and the transmitter (R131, R134, R135, R165, R166, R169) -/

/-- The characters of a frame on the line (R135): an opening delimiter, unless it shares the closing delimiter of the frame
before it, the coded bytes, and a closing delimiter. -/
def lineChars (shared : Bool) (bytes : List Byte) : List Byte :=
  (if shared then [] else [delimiter]) ++ stuff bytes ++ [delimiter]

/-- Transmission of the head item begins (R169): the flags are set from LOSS, LOSS is cleared, the CRC is computed. -/
def beginFrame (k : LinkState) (shared : Bool) : LinkState :=
  match k.txList with
  | [] => k
  | item :: _ => { k with tx := some { loss := k.loss, rest := lineChars shared (item.frame.bytes k.loss) }, loss := false }

/-- Appends an item to the tail of the transmit list (R166); on an empty list its transmission begins at once (R169). -/
def enqueue (k : LinkState) (shared : Bool) (item : TxItem) : LinkState :=
  let k' := { k with txList := k.txList ++ [item] }
  if k.txList.isEmpty then k'.beginFrame shared else k'

/-- The characters that follow the character in progress when a frame is cut (R136): after an escape the delimiter alone,
so that the two together are the abort mark. -/
def abortAfter (c : Byte) : List Byte := if c = escapeByte then [delimiter] else [escapeByte, delimiter]

/-- What a session end does with the frame in transmission (R136): the character in progress is completed; if it was the
closing delimiter the frame has completed, and its item is answered; otherwise the frame is cut. -/
def stopFrame (k : LinkState) : LinkState × Option TxItem :=
  match k.tx, k.txList with
  | some t, item :: more =>
    match t.rest with
    | c :: _ :: _ =>
      ({ k with tx := none, txList := more, wire := k.wire ++ c :: abortAfter c, loss := k.loss || t.loss }, none)
    | _ => ({ k with tx := none, txList := more, wire := k.wire ++ t.rest }, some item)
  | _, _ => (k, none)

/-- What follows a completed frame at once, sharing its closing delimiter (R135): the next frame of the list; or, while a
session end is outstanding, the SESSION_ENDED that its teardown is to append (R154 step 2; log entry 14). -/
def afterDelimiter (k : LinkState) : LinkState :=
  match k.teardown with
  | none => k.beginFrame true
  | some e => { k with teardown := some { e with delimiterSent := true } }

/-- One character time passes at a transmitter: the character in progress is sent, unless it is the closing delimiter
(whose end is FRAME_COMPLETE) or the session is being taken down (log entry 4). -/
def charTime (k : LinkState) : LinkState :=
  match k.tx with
  | some t =>
    match t.rest with
    | c :: c' :: more =>
      if k.teardown.isNone then { k with tx := some { t with rest := c' :: more }, wire := k.wire ++ [c] } else k
    | _ => k
  | none => k

end LinkState

/-- The slot that an item's completion releases (R170). -/
def TxItem.releases (i : TxItem) (k : LinkState) : LinkState :=
  match i.cls with
  | .response s => k.releaseSlot s
  | .waiterNotice _ | .sessionNotice => k

/-- The "spend message" report of an item that carries a claimed payload (R171). -/
def TxItem.spendReport (i : TxItem) (c : Carrier) : List Item :=
  match i.session, i.msg with
  | some n, some m => [.spendMessage m n c]
  | _, _ => []

/-- The completion reports that an item's completion places on the link's intake (R170, R171). -/
def TxItem.reports (i : TxItem) : List Item :=
  match i.cls with
  | .response _ => i.spendReport .response
  | .waiterNotice st => .freeWaiter st :: i.spendReport .notice
  | .sessionNotice => []

namespace Hub

/-! ### Answers made by the link (R130, R141, R166) -/

/-- The link answers the frame that holds a service slot. -/
def linkAnswer (h : Hub) (l : Link) (slot : Fin 4) (kind tag : Byte) (code : ResultCode) (body : List Byte) : Hub :=
  h.modLink l fun k => k.enqueue false
    { cls := .response slot, frame := { kind := responseKind kind, tag := tag, status := code.byte, body := body },
      session := none, msg := none }

/-! ### Engine output (R109, R167) -/

/-- The engine hands a frame to a link with a session number (R167): it is appended when the link is ACTIVE in that session;
otherwise it is discarded, and a discarded response releases its slot if a request of that session still holds it. -/
def handOver (h : Hub) (l : Link) (session : Nat) (item : TxItem) : Hub :=
  h.modLink l fun k =>
    if k.session = .active ∧ k.sessionNo = session then k.enqueue false item
    else
      match item.cls with
      | .response i => if k.window[i] = some session then k.releaseSlot i else k
      | .waiterNotice _ | .sessionNotice => k

/-- The engine's response to an object request (R110), with the reference of the payload it carries, if any. -/
def reply (h : Hub) (l : Link) (rq : Request) (code : ResultCode) (body : List Byte) (msg : Option MessageRef) : Hub :=
  h.handOver l rq.session
    { cls := .response rq.slot,
      frame := { kind := responseKind rq.body.kind.code, tag := rq.tag, status := code.byte, body := body },
      session := some rq.session, msg := msg }

/-- A refusal: its one effect is the response, with an empty body (R111, R180). -/
def refuse (h : Hub) (l : Link) (rq : Request) (code : ResultCode) : Hub := h.reply l rq code [] none

/-- A waiter notice, handed to the record's link with its stamp and session number (R118). -/
def notice (h : Hub) (w : Waiter) (kind : Byte) (body : List Byte) (msg : Option MessageRef) : Hub :=
  h.handOver w.link w.session
    { cls := .waiterNotice w.stamp, frame := { kind := kind, tag := w.tag, status := 0, body := body },
      session := some w.session, msg := msg }

end Hub

/-! ### The arbiter (R108) -/

/-- The sources after a remembered one, in the cyclic order A, B, C, D, T. -/
def Source.cycle : Source → List Source
  | .link .a => [.link .b, .link .c, .link .d, .timebase, .link .a]
  | .link .b => [.link .c, .link .d, .timebase, .link .a, .link .b]
  | .link .c => [.link .d, .timebase, .link .a, .link .b, .link .c]
  | .link .d => [.timebase, .link .a, .link .b, .link .c, .link .d]
  | .timebase => [.link .a, .link .b, .link .c, .link .d, .timebase]

/-- An item that the engine takes: from a link's intake, or an expiry item from intake T. -/
inductive Turn where
  | item (l : Link) (i : Item)
  | expiry (stamp : Stamp)
deriving DecidableEq, Repr

namespace Hub

/-- The head item of a source. -/
def headOf (h : Hub) : Source → Option Turn
  | .link l => (h.intake l).head?.map (.item l)
  | .timebase => h.expiryIntake.head?.map .expiry

/-- The item that the engine takes next, if any intake holds one (R108). -/
def turn (h : Hub) : Option Turn := h.remembered.cycle.findSome? h.headOf

/-- The engine takes the head item of a link's intake, which becomes the remembered source (R108). -/
def takeFrom (h : Hub) (l : Link) : Hub := { h.setIntake l (h.intake l).tail with remembered := .link l }

/-- The engine takes the head item of intake T (R108). -/
def takeExpiry (h : Hub) : Hub := { h with expiryIntake := h.expiryIntake.tail, remembered := .timebase }

/-- The engine takes an object request and performs it, when the arbiter's next item is a request that `perform` knows;
otherwise the event does not occur (log entry 2). -/
def onRequest (h : Hub) (perform : Link → Request → Hub → Option Hub) : Hub :=
  match h.turn with
  | some (.item l (.request rq)) => (perform l rq (h.takeFrom l)).getD h
  | some (.item _ (.freeWaiter _)) | some (.item _ (.spendMessage ..)) | some (.item _ .purge) | some (.expiry _)
  | none => h

/-! ### Sessions (R143, R154) -/

/-- Step 1 of a session end (R154): the link becomes ENDING at once, its keepalive count stops, and steps 2 to 7 are
outstanding (SESSION_END_TEARDOWN). Only an ACTIVE session ends (R153). -/
def endSession (h : Hub) (l : Link) (cause : EndCause) (tag : Byte) (held : Option Hello) : Hub :=
  h.modLink l fun k =>
    if k.session = .active then
      { k with session := .ending, keepaliveCount := none, heldHello := held, teardown := some ⟨cause, tag, false⟩ }
    else k

/-- The link begins a session on a HELLO that holds a service slot (R143). -/
def beginSession (h : Hub) (l : Link) (slot : Fin 4) (he : Hello) : Hub :=
  let h1 := h.modLink l fun k =>
    { k with sessionNo := nextSessionNo k.sessionNo, sessionsBegun := saturate16 k.sessionsBegun, label := he.label,
             keepalive := he.interval, keepaliveCount := if he.interval = 0 then none else some he.interval,
             session := .active }
  h1.linkAnswer l slot ReqKind.hello.code he.tag .ok (welcomeBody (h1.link l).sessionNo (h1.link l).manage h1.tick)

/-- An IDLE link answers a HELLO that holds a service slot (R142). -/
def answerHello (h : Hub) (l : Link) (slot : Fin 4) (he : Hello) : Hub :=
  if he.acceptable then h.beginSession l slot he
  else h.linkAnswer l slot ReqKind.hello.code he.tag .outOfRange []

/-- An ENDING link becomes IDLE and answers its held HELLO, if there is one, which takes a service slot (R157, R159). -/
def leaveEnding (h : Hub) (l : Link) : Hub :=
  let held := (h.link l).heldHello
  let h1 := h.modLink l fun k => { k with session := .idle, heldHello := none }
  match held with
  | none => h1
  | some he =>
    match (h1.link l).freeSlot with
    | none => h1.modLink l LinkState.overrun
    | some i => (h1.modLink l fun k => k.takeSlot i).answerHello l i he

/-- SESSION_ENDED (R156). -/
def sessionEnded (cause : EndCause) (tag : Byte) (sessionNo : Nat) : TxItem :=
  { cls := .sessionNotice,
    frame := { kind := noticeSessionEnded, tag := tag, status := 0, body := [cause.byte, byteOf sessionNo] },
    session := none, msg := none }

end Hub

/-- The link's side of a session end: the frame in transmission is completed or cut, every other item is discarded, every
slot is released, and SESSION_ENDED is appended unless the cause is BREAK (R154 steps 2, 3, 5, 6; R158 steps 2 to 5). It
shares the closing delimiter of a frame that completed at step 2, here or by a FRAME_COMPLETE before (R154, R135; log entry
14). Answers also the item whose frame completed here, if one did. -/
def LinkState.takeDown (k : LinkState) (t : Teardown) : LinkState × Option TxItem :=
  let (k1, done) := k.stopFrame
  let k2 := { k1.releaseAll with txList := [], tx := none, teardown := none }
  if t.cause = .lineBreak then (k2, done)
  else (k2.enqueue (done.isSome || t.delimiterSent) (Hub.sessionEnded t.cause t.tag k.sessionNo), done)

/-- An item of an intake that is no object request of the given session (R107). -/
def Item.stays (session : Nat) : Item → Bool
  | .request r => decide (r.session ≠ session)
  | .freeWaiter _ | .spendMessage .. | .purge => true

namespace Hub

/-- Steps 2 to 7 of R154: a frame that completes places its reports; untaken requests of the session are withdrawn (R107);
the purge item is appended behind the reports. -/
def tearDown (h : Hub) (l : Link) (t : Teardown) : Hub :=
  let n := (h.link l).sessionNo
  let (k, done) := (h.link l).takeDown t
  let reports := (done.map TxItem.reports).getD []
  (h.setLink l k).setIntake l ((h.intake l ++ reports).filter (Item.stays n) ++ [.purge])

/-- Steps 2 to 6 of R154 at a hub reset, or steps 2 to 5 of R158: no report is placed and no purge is appended. -/
def tearDownAtReset (h : Hub) (l : Link) (t : Teardown) : Hub := h.modLink l fun k => (k.takeDown t).1

end Hub
end Sys2Proof.Machine
end

