-- ==== Sys2Proof/Machine/EngineOps.lean ====
section
/-! DEFINITION. The engine's shared operations: the object table and the common checks, deadlines, the tick
event, waiters, the grant pass, message lists, claims and hand-outs. -/

namespace Sys2Proof.Machine

/-! ### Objects and slots (R1, R5, R6, R12, R17) -/

/-- The object of a slot that is LIVE or DRAINING. -/
def SlotState.obj : SlotState → Option Obj
  | .free => none
  | .live o => some o
  | .draining o => some o

def SlotState.byte : SlotState → Byte
  | .free => 0 | .live _ => 1 | .draining _ => 2

/-- Changes the object of a slot, which keeps its state. -/
def SlotState.modObj (f : Obj → Obj) : SlotState → SlotState
  | .free => .free
  | .live o => .live (f o)
  | .draining o => .draining (f o)

/-- The freeing of a slot (R17): FREE, with the generation advanced. -/
def Slot.freed (s : Slot) : Slot := { gen := nextGen s.gen, state := .free }

def Part.resource? : Part → Option Resource
  | .resource r => some r
  | .signal _ | .queue _ => none

def Part.signal? : Part → Option Signal
  | .signal g => some g
  | .resource _ | .queue _ => none

def Part.queue? : Part → Option Queue
  | .queue q => some q
  | .resource _ | .signal _ => none

/-- The wait list of an object (R51). -/
def Part.waitList : Part → List Stamp
  | .resource r => r.waitList
  | .signal g => g.waitList
  | .queue q => q.waitList

def Part.setWaitList (ws : List Stamp) : Part → Part
  | .resource r => .resource { r with waitList := ws }
  | .signal g => .signal { g with waitList := ws }
  | .queue q => .queue { q with waitList := ws }

/-- Every slot number, in ascending order. -/
def slotNumbers : List (Fin 48) := List.finRange 48

namespace Hub

def slot (h : Hub) (i : Fin 48) : Slot := h.slots[i]

def setSlot (h : Hub) (i : Fin 48) (s : Slot) : Hub := { h with slots := h.slots.set i s }

/-- The object of a slot that is LIVE or DRAINING. -/
def objAt (h : Hub) (i : Fin 48) : Option Obj := (h.slot i).state.obj

/-- Changes the object of a slot, which keeps its state and generation. -/
def modObj (h : Hub) (i : Fin 48) (f : Obj → Obj) : Hub :=
  h.setSlot i { h.slot i with state := (h.slot i).state.modObj f }

def setPart (h : Hub) (i : Fin 48) (p : Part) : Hub := h.modObj i fun o => { o with part := p }

/-- A slot is freed (R17). The packet-memory bytes of a queue's area, which then have no meaning (R17, R67), stay as they were:
the model's choice (log entry 28). -/
def freeSlotAt (h : Hub) (i : Fin 48) : Hub := h.setSlot i (h.slot i).freed

/-- The slot that a handle names while it is valid (R4). -/
def slotOf (h : Hub) (hd : Handle) : Option (Fin 48) :=
  if lt : hd.slot < 48 then
    let i : Fin 48 := ⟨hd.slot, lt⟩
    if (h.slot i).gen = hd.gen ∧ (h.slot i).state ≠ .free then some i else none
  else none

/-- The common checks on a handle (R5), in their order, for a request that accepts the kinds `kind?` recognises; QUERY alone
is exempt from the DRAINING check. -/
def checkHandle {α : Type} (h : Hub) (l : Link) (hd : Handle) (kind? : Part → Option α) (isQuery : Bool) :
    Except ResultCode (Fin 48 × Obj × α) :=
  if lt : hd.slot < 48 then
    let i : Fin 48 := ⟨hd.slot, lt⟩
    let s := h.slot i
    match s.state.obj with
    | none => .error .stale
    | some o =>
      if s.gen ≠ hd.gen then .error .stale
      else if s.state = .draining o ∧ isQuery = false then .error .draining
      else
        match kind? o.part with
        | none => .error .wrongKind
        | some p => if LinkSet.has o.access l then .ok (i, o, p) else .error .denied
  else .error .badHandle

/-- The creator right or MANAGE (R6). -/
def creatorOrManage (h : Hub) (l : Link) (o : Obj) : Bool := decide (o.creator = l) || h.manages l

/-- The slot of the LIVE or DRAINING object with a name (R7, R8). -/
def findName (h : Hub) (name : List Byte) : Option (Fin 48) :=
  slotNumbers.find? fun i =>
    match h.objAt i with
    | some o => o.name == some name
    | none => false

/-- The lowest-numbered FREE slot (R12). -/
def lowestFree (h : Hub) : Option (Fin 48) := slotNumbers.find? fun i => (h.slot i).state == .free

/-- Checks 1 to 3 of every CREATE request (R11): the slot and the discipline to use, or the refusal. -/
def createChecks (h : Hub) (l : Link) (c : CreateCommon) : Except ResultCode (Fin 48 × Discipline) :=
  if c.name ≠ [] ∧ (h.findName c.name).isSome then .error .nameTaken
  else
    match h.lowestFree with
    | none => .error .noSlot
    | some i =>
      match disciplineOf c.discipline with
      | none => .error .outOfRange
      | some d =>
        if c.name.all nameByteOk && accessByteOk c.access && LinkSet.has (linkSetOf c.access) l then .ok (i, d)
        else .error .outOfRange

/-- A CREATE request that passed every check takes its slot (R12) and is answered OK with the handle. -/
def create (h : Hub) (l : Link) (rq : Request) (c : CreateCommon) (i : Fin 48) (d : Discipline) (p : Part) : Hub :=
  let o : Obj := { name := if c.name = [] then none else some c.name, creator := l, access := linkSetOf c.access,
                   discipline := d, part := p }
  let hd : Handle := { slot := i, gen := (h.slot i).gen }
  (h.setSlot i { h.slot i with state := .live o }).reply l rq .ok hd.bytes none

/-- Whether a LIVE or DRAINING queue names a handle as its companion (R16). -/
def namedAsCompanion (h : Hub) (hd : Handle) : Bool :=
  slotNumbers.any fun i =>
    match (h.objAt i).bind fun o => o.part.queue? with
    | some q => q.companion == some hd
    | none => false

/-! ### Deadlines (R96, R97, R98, R99) -/

/-- The place of a new deadline entry: behind every entry that is earlier or equal (R97). -/
def insertDeadline (e : DeadlineEntry) : List DeadlineEntry → List DeadlineEntry
  | [] => [e]
  | x :: xs => if tickEarlier e.deadline x.deadline then e :: x :: xs else x :: insertDeadline e xs

/-- An insert claim (R97): an entry already due goes at once to intake T, if that has room. -/
def insertClaim (h : Hub) (e : DeadlineEntry) : Hub :=
  if tickDue e.deadline h.tick && decide (h.expiryIntake.length < Config.expiryPlaces) then
    { h with expiryIntake := h.expiryIntake ++ [e.stamp] }
  else { h with deadlines := insertDeadline e h.deadlines }

/-- A removal claim (R98). -/
def removeClaim (h : Hub) (st : Stamp) : Hub := { h with deadlines := h.deadlines.filter fun e => e.stamp ≠ st }

/-- The entries that are due, from the head of the list, as far as intake T has room (R99, R100): what is left of the list,
and intake T behind them. -/
def dueMoved (now : Tick) : List DeadlineEntry → List Stamp → List DeadlineEntry × List Stamp
  | [], t => ([], t)
  | e :: es, t =>
    if tickDue e.deadline now && decide (t.length < Config.expiryPlaces) then dueMoved now es (t ++ [e.stamp])
    else (e :: es, t)

/-- The timebase moves the due entries to intake T (R99). -/
def moveDue (h : Hub) : Hub :=
  let p := dueMoved h.tick h.deadlines h.expiryIntake
  { h with deadlines := p.1, expiryIntake := p.2 }

/-! ### The tick event (R93, R99, R151) -/

/-- The keepalive count of an ACTIVE link stands at 0: a tick event has lowered it, and the session ends (R151). -/
def lapsed (h : Hub) (l : Link) : Bool :=
  decide ((h.link l).session = .active) && decide ((h.link l).keepaliveCount = some 0)

/-- A lapsed session ends with cause KEEPALIVE (R151). -/
def lapse (h : Hub) (l : Link) : Hub := if h.lapsed l then h.endSession l .keepalive 0 none else h

/-- What the latest tick event leaves outstanding is carried out: the due entries are moved and the lapsed sessions end
(R93, R99, R151). DEADLINE_DUE and KEEPALIVE_LAPSE are its parts; any other command finds them done (log entry 3). -/
def catchUp (h : Hub) : Hub := Link.all.foldl lapse h.moveDue

/-- What a tick event does at a link: READY rises and HELD assemblers begin to settle at the first one (R137, R138), and
the keepalive count of an ACTIVE link is lowered (R151). -/
def tickAtLink (k : LinkState) : LinkState :=
  let k1 := if k.asm = .held then { k with asm := .settling } else k
  if k1.session = .active then { k1 with keepaliveCount := k1.keepaliveCount.map fun n => n - 1 } else k1

/-- A tick event (R93): the counter takes its new value; the rest is `catchUp`. -/
def tickEvent (h : Hub) : Hub :=
  Link.all.foldl (fun h l => h.modLink l tickAtLink) { h with tick := h.tick + 1, ready := true }

/-- A number of whole tick events, one after another (R93). -/
def tickEvents : Nat → Hub → Hub
  | 0, h => h
  | n + 1, h => tickEvents n h.tickEvent.catchUp

/-! ### Waiter records (R43 to R48, R51 to R53) -/

def findWaiter (h : Hub) (st : Stamp) : Option Waiter := h.waiters.find? fun w => w.stamp == st

/-- Changes the record with a stamp. -/
def modWaiter (h : Hub) (st : Stamp) (f : Waiter → Waiter) : Hub :=
  { h with waiters := h.waiters.map fun w => if w.stamp = st then f w else w }

/-- Frees the record with a stamp (R43). -/
def freeRecord (h : Hub) (st : Stamp) : Hub := { h with waiters := h.waiters.filter fun w => w.stamp ≠ st }

/-- The number of records a link owns, in every state (R46). -/
def owned (h : Hub) (l : Link) : Nat := h.waiters.countP fun w => decide (w.link = l)

/-- The record of a link with a tag, in any state (R47, R59). -/
def findTag (h : Hub) (l : Link) (tag : Byte) : Option Waiter := h.waiters.find? fun w => decide (w.link = l ∧ w.tag = tag)

/-- The wait list of a slot's object; empty for a FREE slot. -/
def waitListAt (h : Hub) (i : Fin 48) : List Stamp :=
  match h.objAt i with
  | some o => o.part.waitList
  | none => []

def setWaitListAt (h : Hub) (i : Fin 48) (ws : List Stamp) : Hub :=
  h.modObj i fun o => { o with part := o.part.setWaitList ws }

/-- The priority of a record; 0 for a stamp that no record carries. -/
def priorityOf (h : Hub) (st : Stamp) : Nat :=
  match h.findWaiter st with
  | some w => w.priority
  | none => 0

/-- The place of a new waiter under PRIORITY discipline (R52): before the first record that is less urgent. -/
def insertByPriority (prio : Stamp → Nat) (p : Nat) (st : Stamp) : List Stamp → List Stamp
  | [] => [st]
  | x :: xs => if prio x ≤ p then x :: insertByPriority prio p st xs else st :: x :: xs

/-- The place of a new waiter by the object's discipline (R52, R53). -/
def insertWaiter (h : Hub) (d : Discipline) (p : Nat) (st : Stamp) (ws : List Stamp) : List Stamp :=
  match d with
  | .arrival => ws ++ [st]
  | .priority => insertByPriority h.priorityOf p st ws

/-- The two refusals of the waiter stage, in their order (R48). -/
def waiterRefusal (h : Hub) (l : Link) (tag : Byte) : Option ResultCode :=
  if (h.findTag l tag).isSome then some .tagInUse
  else if Config.waiterQuota ≤ h.owned l then some .noWaiter
  else none

/-- The engine makes a waiter on a slot's object (R48): record, wait list, deadline claim, response WAITING. The deadline is
made from the tick that the engine reads as it takes the request (R50, R94); `ticks` tick events fall between that reading and
the insert claim (R97), and none where no claim is made (log entry 27). -/
def makeWaiter (h : Hub) (ticks : Nat) (l : Link) (rq : Request) (hd : Handle) (i : Fin 48) (d : Discipline) (op : WaitOp)
    (amount priority timeout : Nat) : Hub :=
  let st := h.stampCounter + 1
  let w : Waiter :=
    { link := l, session := rq.session, tag := rq.tag, object := hd, op := op, amount := amount, priority := priority,
      deadline := deadlineOf h.tick timeout, stamp := st, state := .waiting, message := none }
  let h1 := { h with stampCounter := st, waiters := h.waiters ++ [w] }
  let h2 := h1.setWaitListAt i (h.insertWaiter d priority st (h.waitListAt i))
  let h3 := match w.deadline with
    | some dl => (h2.tickEvents ticks).insertClaim { stamp := st, deadline := dl }
    | none => h2
  h3.reply l rq .waiting [] none

/-- A record leaves WAITING other than by its own expiry: its new state is set, and the removal of its deadline entry is
claimed if it has one (R55, R57, R98). -/
def endWait (h : Hub) (w : Waiter) (st : WaiterState) (msg : Option Half) : Hub :=
  let h1 := h.modWaiter w.stamp fun x => { x with state := st, message := msg }
  if w.deadline.isSome then h1.removeClaim w.stamp else h1

/-- A record leaves its object's wait list, wherever it stands in it (R51). -/
def leaveWaitList (h : Hub) (i : Fin 48) (st : Stamp) : Hub :=
  h.setWaitListAt i ((h.waitListAt i).filter fun x => x ≠ st)

/-- A waiter of a deleted object becomes ABANDONED, with its notice (R57). -/
def abandon (h : Hub) (st : Stamp) : Hub :=
  match h.findWaiter st with
  | some w => (h.endWait w .abandoned none).notice w noticeAbandoned w.object.bytes none
  | none => h

/-! ### The grant pass (R27, R28, R36) -/

/-- The waiter becomes GRANTED, with its GRANT notice (R27 steps 3 and 4). -/
def grant (h : Hub) (w : Waiter) : Hub :=
  (h.endWait w .granted none).notice w noticeGrant (w.object.bytes ++ [byteOf w.amount]) none

/-- The part of a semaphore after its head waiter has been satisfied (R27 steps 1 and 2); none when it cannot be. -/
def grantedPart (w : Waiter) : Part → Option Part
  | .resource r =>
    if w.amount ≤ r.available then
      some (.resource { r with available := r.available - w.amount, waitList := r.waitList.tail,
                               holdings := r.holdings.set w.link (r.holdings.get w.link + w.amount) })
    else none
  | .signal g => if 1 ≤ g.count then some (.signal { g with count := g.count - 1, waitList := g.waitList.tail }) else none
  | .queue _ => none

/-- One turn of the grant pass: the head waiter is granted, if it can be satisfied. -/
def grantHead (h : Hub) (i : Fin 48) (st : Stamp) : Option Hub :=
  match h.objAt i, h.findWaiter st with
  | some o, some w => (grantedPart w o.part).map fun p => (h.setPart i p).grant w
  | _, _ => none

/-- The grant pass over a wait list, from its head, up to the first waiter that cannot be satisfied (R27). -/
def grantList (i : Fin 48) : List Stamp → Hub → Hub
  | [], h => h
  | st :: rest, h =>
    match h.grantHead i st with
    | some h' => grantList i rest h'
    | none => h

/-- The grant pass at a slot (R27); a queue or a FREE slot has none. -/
def grantPass (h : Hub) (i : Fin 48) : Hub := grantList i (h.waitListAt i) h

/-- A waiter that has left a wait list by expiry or CANCEL: if it was the head of a semaphore's list, the grant pass runs
(R37). -/
def passIfHead (h : Hub) (i : Fin 48) (wasHead : Bool) : Hub := if wasHead then h.grantPass i else h

/-- Companion signalling (R36): below its limit the companion's count rises by 1 and the grant pass runs. -/
def signalCompanion (h : Hub) (hd : Handle) : Hub :=
  match h.slotOf hd with
  | none => h
  | some i =>
    match (h.objAt i).bind fun o => o.part.signal? with
    | some g => if g.count < g.limit then (h.setPart i (.signal { g with count := g.count + 1 })).grantPass i else h
    | none => h

end Hub

/-! ### Messages (R71 to R75, R79, R80) -/

def Message.isReady (m : Message) : Bool := m.state == .ready

def Message.isSpent (m : Message) : Bool := m.state == .spent

def Message.isClaimed (m : Message) : Bool :=
  match m.state with
  | .claimed _ => true
  | .ready | .spent => false

/-- A message claimed by a link's session (R55, R88). -/
def Message.claimedBy (m : Message) (l : Link) : Bool :=
  match m.state with
  | .claimed c => decide (c.link = l)
  | .ready | .spent => false

/-- A claim (R79): bound to its claimant, with the deliveries count raised. -/
def Message.claim (m : Message) (c : Claimant) : Message :=
  { m with state := .claimed c, deliveries := saturate8 m.deliveries }

namespace Queue

def areaBytes (q : Queue) : Nat := Config.blockBytes * q.blocks

/-- Bytes used: the sum of the footprints of the retained messages (R74). -/
def used (q : Queue) : Nat := (q.messages.map fun m => footprint m.length).sum

def freeBytes (q : Queue) : Nat := q.areaBytes - q.used

def readyCount (q : Queue) : Nat := q.messages.countP Message.isReady

def claimedCount (q : Queue) : Nat := q.messages.countP Message.isClaimed

/-- Where the next message is written (R68): directly after the newest retained message; at the front of the area when
none is retained (log entry 7). -/
def writeOffset (q : Queue) : Nat :=
  match q.messages.getLast? with
  | some m => (m.offset + footprint m.length) % q.areaBytes
  | none => 0

/-- The four bytes of a message's record header, which hold its length (R68, R73); log entry 7. -/
def header (length : Nat) : List Byte := bytes32 length

/-- The payload of a message, read from the packet memory behind its record header. -/
def payload (q : Queue) (mem : Memory) (m : Message) : List Byte := q.readBytes mem (m.offset + 4) m.length

/-- Reclamation (R75): SPENT messages at the oldest end leave the list. -/
def reclaim (q : Queue) : Queue := { q with messages := q.messages.dropWhile Message.isSpent }

/-- Every READY message becomes SPENT (R84, R85). -/
def spendReady (q : Queue) : Queue :=
  { q with messages := q.messages.map fun m => if m.isReady then { m with state := .spent } else m }

/-- The oldest READY message is claimed: the message as claimed, and the list with it in its place (R78, R89). -/
def claimOldest (c : Claimant) : List Message → Option (Message × List Message)
  | [] => none
  | m :: ms =>
    if m.isReady then some (m.claim c, m.claim c :: ms)
    else (claimOldest c ms).map fun p => (p.1, m :: p.2)

/-- An operation that took the READY count from `before` to `after` crosses the threshold and calls for one companion
signalling (R80); answers the companion. -/
def crossed (q : Queue) (before after : Nat) : Option Handle :=
  if q.threshold ≠ 0 ∧ before < q.threshold ∧ q.threshold ≤ after then q.companion else none

/-- The claims of a link are withdrawn (R88): READY again on a LIVE queue, SPENT on a DRAINING one. -/
def withdrawClaims (q : Queue) (l : Link) (next : MessageState) : Queue :=
  { q with messages := q.messages.map fun m => if m.claimedBy l then { m with state := next } else m }

end Queue

namespace Hub

/-- A claimed message is handed to a receive waiter (R55, R77): the record becomes GRANTED and holds the message, and a
DELIVER notice is made. The message's payload is read from the queue's area. -/
def deliver (h : Hub) (q : Queue) (w : Waiter) (m : Message) : Hub :=
  (h.endWait w .granted (some m.seq)).notice w noticeDeliver
    (payloadBody w.object m.seq m.deliveries (q.payload h.packetMemory m)) (some { queue := w.object, seq := m.seq })

/-- The hand-out of READY messages to receive waiters, from the head of the wait list (R89). -/
def handOut (i : Fin 48) : List Stamp → Hub → Hub
  | [], h => h
  | st :: rest, h =>
    match (h.objAt i).bind fun o => o.part.queue?, h.findWaiter st with
    | some q, some w =>
      match Queue.claimOldest ⟨w.link, w.session, .notice⟩ q.messages with
      | some (m, ms) =>
        let q' := { q with messages := ms, waitList := q.waitList.tail }
        handOut i rest ((h.setPart i (.queue q')).deliver q' w m)
      | none => h
    | _, _ => h

/-- A queue's list after a change that made messages SPENT: reclamation runs, and a DRAINING queue whose list is then empty
frees its slot (R75, R82, R88). -/
def setReclaimed (h : Hub) (i : Fin 48) (q : Queue) : Hub :=
  let h1 := h.setPart i (.queue q.reclaim)
  match (h.slot i).state with
  | .draining _ => if q.reclaim.messages = [] then h1.freeSlotAt i else h1
  | .free | .live _ => h1

end Hub
end Sys2Proof.Machine
end

