-- ==== Sys2Proof/Machine/Timebase.lean ====
section
/-! DEFINITION. The timebase and pin reset: PIN_RESET, TICK_EVENT, DEADLINE_DUE, KEEPALIVE_LAPSE. -/

namespace Sys2Proof.Machine

/-- An event at the hub, once what the latest tick event left outstanding is done. The command queue is not touched. -/
def State.onHub (s : State) (f : Hub → Hub) : Host.Outcome State Fault Refusal :=
  .next { s with toHub := f s.toHub.catchUp }

/-- PIN_RESET (R119, R10, R92, R104, R137, R138, R160, R175): the hub is set afresh, with the straps sampled. -/
def execPinReset (straps : Straps) (s : State) : Host.Outcome State Fault Refusal := s.onHub fun _ => Hub.reset straps

/-- TICK_EVENT (R93, R138, R151). -/
def execTickEvent (s : State) : Host.Outcome State Fault Refusal := s.onHub Hub.tickEvent

/-- DEADLINE_DUE (R99): the due entries are moved as far as intake T has room. -/
def execDeadlineDue (s : State) : Host.Outcome State Fault Refusal := .next { s with toHub := s.toHub.moveDue }

/-- KEEPALIVE_LAPSE (R151): the session of a link whose count stands at 0 ends. -/
def execKeepaliveLapse (l : Link) (s : State) : Host.Outcome State Fault Refusal :=
  .next { s with toHub := s.toHub.lapse l }

end Sys2Proof.Machine
end

