-- ==== Sys2Proof/Machine/Sessions.lean ====
section
/-! DEFINITION. The session logic and the frames a delimiter closes: UNKNOWN_KIND, HELLO, BYE, PING, LINK_STATUS,
OBJECT_REQUEST; the end of a session and the completion of frames: SESSION_END_TEARDOWN, FRAME_COMPLETE. -/

namespace Sys2Proof.Machine

namespace Hub

/-- The LINK_STATUS snapshot of a link (R149, R181). -/
def linkStatusBody (h : Hub) (l : Link) : List Byte :=
  let k := h.link l
  [k.session.byte, byteOf k.sessionNo, rightsByte k.manage] ++ namedBytes k.label
    ++ [byteOf k.slotsInUse, byteOf (h.owned l), byteOf k.txList.length]
    ++ bytes16 k.frameErrors ++ bytes16 k.overruns ++ bytes16 k.sessionsBegun ++ bytes32 h.tick.toNat

/-! ### A well-formed frame that holds a service slot of an IDLE or ACTIVE link (R141) -/

/-- HELLO: answered in IDLE (R142); in ACTIVE it ends the session and is held, unless its fields fail (R144). -/
def serveHello (h : Hub) (l : Link) (slot : Fin 4) (f : RxFrame) (he : Hello) : Hub :=
  if (h.link l).session = .active then
    if he.acceptable then h.endSession l .rehello 0 (some he) else h.linkAnswer l slot f.kind f.tag .outOfRange []
  else h.answerHello l slot he

/-- BYE (R146): the session ends; its SESSION_ENDED will carry the BYE's tag. -/
def serveBye (h : Hub) (l : Link) (slot : Fin 4) (f : RxFrame) : Hub :=
  if (h.link l).session = .active then h.endSession l .bye f.tag none
  else h.linkAnswer l slot f.kind f.tag .noSession []

/-- PING (R147): answered with the tick. -/
def servePing (h : Hub) (l : Link) (slot : Fin 4) (f : RxFrame) : Hub :=
  if (h.link l).session = .active then h.linkAnswer l slot f.kind f.tag .ok (bytes32 h.tick.toNat)
  else h.linkAnswer l slot f.kind f.tag .noSession []

/-- LINK_STATUS (R148): range, then MANAGE for another link, then the snapshot. -/
def serveLinkStatus (h : Hub) (l : Link) (slot : Fin 4) (f : RxFrame) (target : Nat) : Hub :=
  if (h.link l).session = .active then
    match linkOf target with
    | none => h.linkAnswer l slot f.kind f.tag .outOfRange []
    | some t =>
      if t ≠ l ∧ h.manages l = false then h.linkAnswer l slot f.kind f.tag .denied []
      else h.linkAnswer l slot f.kind f.tag .ok (h.linkStatusBody t)
  else h.linkAnswer l slot f.kind f.tag .noSession []

/-- An engine-bound request (R150): appended to the intake with the session number and the slot. -/
def serveRequest (h : Hub) (l : Link) (slot : Fin 4) (f : RxFrame) (r : ObjReq) : Hub :=
  if (h.link l).session = .active then
    h.appendIntake l [.request { tag := f.tag, session := (h.link l).sessionNo, slot := slot, body := r }]
  else h.linkAnswer l slot f.kind f.tag .noSession []

/-- A good frame that holds a service slot, by its verdict (R130, R141). -/
def serve (h : Hub) (l : Link) (slot : Fin 4) (f : RxFrame) : Hub :=
  match f.verdict with
  | .unknownKind => h.linkAnswer l slot f.kind f.tag .unknownKind []
  | .malformed => h.linkAnswer l slot f.kind f.tag .malformed []
  | .wellFormed (.hello he) => h.serveHello l slot f he
  | .wellFormed .bye => h.serveBye l slot f
  | .wellFormed .ping => h.servePing l slot f
  | .wellFormed (.linkStatus t) => h.serveLinkStatus l slot f t
  | .wellFormed (.object r) => h.serveRequest l slot f r

/-- A good frame reaches an ENDING link (R141, R145): a well-formed HELLO is held, any other frame is discarded. -/
def goodFrameEnding (h : Hub) (l : Link) (f : RxFrame) : Hub :=
  match f.verdict with
  | .wellFormed (.hello he) => h.modLink l fun k => { k with heldHello := some he }
  | .unknownKind | .malformed | .wellFormed .bye | .wellFormed .ping | .wellFormed (.linkStatus _)
  | .wellFormed (.object _) => h

/-- A good frame (R130, R141, R151, R161, R163): in IDLE and ACTIVE it restarts the keepalive and takes the lowest free
service slot, or is an overrun. -/
def goodFrame (h : Hub) (l : Link) (f : RxFrame) : Hub :=
  if (h.link l).session = .ending then h.goodFrameEnding l f
  else
    let h1 := h.modLink l LinkState.restartKeepalive
    match (h1.link l).freeSlot with
    | none => h1.modLink l LinkState.overrun
    | some i => (h1.modLink l fun k => k.takeSlot i).serve l i f

/-- The delimiter closes the frame in the buffer (R126, R128, R129): the buffer is emptied and the state stays COLLECTING; a
frame that fails the closing checks is a receive error. -/
def closeFrame (h : Hub) (l : Link) : Hub :=
  match closingCheck (h.link l).buffer with
  | .error _ => h.modLink l fun k => k.receiveError .collecting
  | .ok f => (h.modLink l fun k => { k with buffer := [] }).goodFrame l f

/-- Whether a delimiter now closes a good frame with a kind of the given sort. -/
def closesGood (h : Hub) (l : Link) (sort : Option ReqKind → Bool) : Bool :=
  match (h.link l).asm, closingCheck (h.link l).buffer with
  | .collecting, .ok f => sort (ReqKind.ofCode f.kind)
  | _, _ => false

/-- The event of a delimiter that closes a good frame of the given sort; where it would close no such frame the event does
not occur (log entry 2). -/
def closeGood (h : Hub) (l : Link) (sort : Option ReqKind → Bool) : Hub :=
  if h.closesGood l sort then h.closeFrame l else h

/-- The frame in transmission completes (R170): its last characters have been sent, its item leaves the list, its effects are
made, and what shares its closing delimiter follows. While a session end is outstanding a frame completes only when its
closing delimiter was in progress (R136, R154; log entry 14). -/
def frameCompletes (h : Hub) (l : Link) : Hub :=
  let k := h.link l
  match k.tx, k.txList with
  | some t, item :: more =>
    if k.teardown.isSome ∧ 1 < t.rest.length then h
    else
      let k1 := item.releases { k with tx := none, txList := more, wire := k.wire ++ t.rest }
      (h.setLink l k1.afterDelimiter).appendIntake l item.reports
  | _, _ => h

end Hub

/-- UNKNOWN_KIND (R130, R141). -/
def execUnknownKind (l : Link) (s : State) : Host.Outcome State Fault Refusal :=
  s.onHub fun h => h.closeGood l fun k => k.isNone

/-- HELLO (R142, R144, R145, R130, R163). -/
def execHello (l : Link) (s : State) : Host.Outcome State Fault Refusal :=
  s.onHub fun h => h.closeGood l fun k => k == some .hello

/-- BYE (R146, R141). -/
def execBye (l : Link) (s : State) : Host.Outcome State Fault Refusal :=
  s.onHub fun h => h.closeGood l fun k => k == some .bye

/-- PING (R147, R141). -/
def execPing (l : Link) (s : State) : Host.Outcome State Fault Refusal :=
  s.onHub fun h => h.closeGood l fun k => k == some .ping

/-- LINK_STATUS (R148, R149, R141). -/
def execLinkStatus (l : Link) (s : State) : Host.Outcome State Fault Refusal :=
  s.onHub fun h => h.closeGood l fun k => k == some .linkStatus

/-- OBJECT_REQUEST (R150, R141). -/
def execObjectRequest (l : Link) (s : State) : Host.Outcome State Fault Refusal :=
  s.onHub fun h => h.closeGood l fun k => k.any ReqKind.engineBound

/-- SESSION_END_TEARDOWN (R154 steps 2 to 7, R107, R136, R173). -/
def execSessionEndTeardown (l : Link) (s : State) : Host.Outcome State Fault Refusal :=
  s.onHub fun h =>
    match (h.link l).teardown with
    | some t => h.tearDown l t
    | none => h

/-- FRAME_COMPLETE (R170, R171, R135). -/
def execFrameComplete (l : Link) (s : State) : Host.Outcome State Fault Refusal := s.onHub fun h => h.frameCompletes l

end Sys2Proof.Machine
end

