-- ==== Sys2Proof/Machine/Engine.lean ====
section
/-! DEFINITION. The engine's items beyond the object table: EVICT, HUB_RESET, PURGE. -/

namespace Sys2Proof.Machine

/-- A slot at hub reset (R20): LIVE and DRAINING slots are freed; a FREE slot keeps its generation. -/
def Slot.atHubReset (s : Slot) : Slot := if s.state = .free then s else s.freed

/-- The ending link's holding moves to available or to stranded, by the robust flag (R39). -/
def Resource.purgeHolding (r : Resource) (l : Link) : Resource :=
  if r.robust then { r with available := r.available + r.holdings.get l, holdings := r.holdings.set l 0 }
  else { r with stranded := r.stranded + r.holdings.get l, holdings := r.holdings.set l 0 }

namespace Hub

/-- EVICT (R114, R152): MANAGE, then a target other than the requester; an ACTIVE target's session ends with cause EVICTED. -/
def evict (h : Hub) (l : Link) (rq : Request) (target : Nat) : Hub :=
  if h.manages l = false then h.refuse l rq .denied
  else
    match linkOf target with
    | none => h.refuse l rq .outOfRange
    | some t => if t = l then h.refuse l rq .outOfRange else (h.endSession t .evicted 0 none).reply l rq .ok [] none

/-! ### Hub reset (R115, R158, R159) -/

/-- A hub reset reaches a link (R158, R159, R174): an ACTIVE link ends its session with cause HUB_RESET and becomes IDLE
without a purge; an ENDING link finishes what is outstanding of its session end, without reports or purge, becomes IDLE and
answers a held HELLO; an IDLE link stays as it is. -/
def resetLink (requester : Link) (tag : Byte) (h : Hub) (l : Link) : Hub :=
  match (h.link l).session with
  | .idle => h
  | .active =>
    (h.modLink l fun k => { k with session := .idle, keepaliveCount := none, heldHello := none }).tearDownAtReset l
      ⟨.hubReset, if l = requester then tag else 0, false⟩
  | .ending =>
    match (h.link l).teardown with
    | some t => (h.tearDownAtReset l t).leaveEnding l
    | none => h.leaveEnding l

/-- HUB_RESET (R115, R116): refused without MANAGE; otherwise carried out, with no response. The bytes of the freed queues' areas
stay as they were (log entry 28). -/
def hubReset (h : Hub) (l : Link) (rq : Request) : Hub :=
  if h.manages l = false then h.refuse l rq .denied
  else
    Link.all.foldl (resetLink l rq.tag)
      { h with slots := h.slots.map Slot.atHubReset, waiters := [], intakes := PerLink.all [], expiryIntake := [],
               deadlines := [], remembered := .link l }

/-! ### The purge of a session (R113) -/

/-- The waiters of a link leave a slot's wait list, and the removals of their deadline entries are claimed (R38, R87). Their
records are freed with the link's other records (R63). -/
def purgeWaiters (h : Hub) (l : Link) (i : Fin 48) : Hub :=
  let mine (st : Stamp) : Bool :=
    match h.findWaiter st with
    | some w => decide (w.link = l)
    | none => false
  let ws := h.waitListAt i
  (ws.filter mine).foldl removeClaim (h.setWaitListAt i (ws.filter fun st => !mine st))

/-- The purge at a RESOURCE (R38, R39, R40). -/
def purgeResource (h : Hub) (l : Link) (i : Fin 48) (r : Resource) : Hub :=
  let h1 := h.purgeWaiters l i
  let removed := decide (h1.waitListAt i ≠ h.waitListAt i)
  let r1 : Resource := { Resource.purgeHolding r l with waitList := h1.waitListAt i }
  let h2 := h1.setPart i (.resource r1)
  if removed || decide (r.holdings.get l ≠ 0) then h2.grantPass i else h2

/-- The purge at a SIGNAL (R38, R40). -/
def purgeSignal (h : Hub) (l : Link) (i : Fin 48) : Hub :=
  let h1 := h.purgeWaiters l i
  if h1.waitListAt i ≠ h.waitListAt i then h1.grantPass i else h1

/-- The READY count of a slot's queue; 0 where there is none. -/
def readyCountAt (h : Hub) (i : Fin 48) : Nat :=
  match (h.objAt i).bind fun o => o.part.queue? with
  | some q => q.readyCount
  | none => 0

/-- The purge at a LIVE queue (R87 to R89): waiters removed, claims returned to READY, reclamation, hand-out; answers the
companion to be signalled if the READY count crossed the threshold. -/
def purgeLiveQueue (h : Hub) (l : Link) (i : Fin 48) (q : Queue) : Hub × Option Handle :=
  let h1 := h.purgeWaiters l i
  let q1 : Queue := { q.withdrawClaims l .ready with waitList := h1.waitListAt i }
  let h2 := h1.setPart i (.queue q1.reclaim)
  let h3 := handOut i (h2.waitListAt i) h2
  (h3, q.crossed q.readyCount (h3.readyCountAt i))

/-- The purge at a DRAINING queue (R87, R88): claims become SPENT, and the slot is freed if reclamation empties the list. -/
def purgeDrainingQueue (h : Hub) (l : Link) (i : Fin 48) (q : Queue) : Hub :=
  let h1 := h.purgeWaiters l i
  h1.setReclaimed i { q.withdrawClaims l .spent with waitList := h1.waitListAt i }

/-- The purge at one slot (R113 step 1). -/
def purgeSlot (l : Link) (h : Hub) (i : Fin 48) : Hub × Option Handle :=
  match (h.slot i).state with
  | .free => (h, none)
  | .live o =>
    match o.part with
    | .resource r => (h.purgeResource l i r, none)
    | .signal _ => (h.purgeSignal l i, none)
    | .queue q => h.purgeLiveQueue l i q
  | .draining o =>
    match o.part with
    | .queue q => (h.purgeDrainingQueue l i q, none)
    | .resource _ | .signal _ => (h, none)

/-- The purge over slots in ascending order, with the companions to be signalled in that order (R90, R113). -/
def purgeSlots (l : Link) : List (Fin 48) → Hub → Hub × List Handle
  | [], h => (h, [])
  | i :: is, h =>
    let p := purgeSlot l h i
    let r := purgeSlots l is p.1
    (r.1, p.2.toList ++ r.2)

/-- The purge completion at a link (R157): an ENDING link leaves ENDING. -/
def purgeCompletion (h : Hub) (l : Link) : Hub := if (h.link l).session = .ending then h.leaveEnding l else h

/-- PURGE (R113): the slots in order, the link's records, the marked companion signallings, the purge completion. -/
def purge (h : Hub) (l : Link) : Hub :=
  let p := purgeSlots l slotNumbers h
  let h1 : Hub := { p.1 with waiters := p.1.waiters.filter fun w => w.link ≠ l }
  (p.2.foldl signalCompanion h1).purgeCompletion l

end Hub

/-- EVICT (R114, R152). -/
def execEvict (s : State) : Host.Outcome State Fault Refusal :=
  s.onHub fun h => h.onRequest fun l rq h =>
    match rq.body with
    | .evict target => some (h.evict l rq target)
    | _ => none

/-- HUB_RESET (R115, R116, R158, R159). -/
def execHubReset (s : State) : Host.Outcome State Fault Refusal :=
  s.onHub fun h => h.onRequest fun l rq h =>
    match rq.body with
    | .hubReset => some (h.hubReset l rq)
    | _ => none

/-- PURGE (R113, R157). -/
def execPurge (s : State) : Host.Outcome State Fault Refusal :=
  s.onHub fun h =>
    match h.turn with
    | some (.item l .purge) => (h.takeFrom l).purge l
    | _ => h

end Sys2Proof.Machine
end

