-- ==== Sys2Proof/Machine/Framing.lean ====
section
/-! DEFINITION. The frame assembler: GOOD_CHARACTER, RECEIVE_ERROR, ABORT_MARK, BREAK, SETTLING_COMPLETE. -/

namespace Sys2Proof.Machine

namespace LinkState

/-- A data byte joins the frame in progress, unless it would be the 307th (R126). -/
def collect (k : LinkState) (v : Byte) : LinkState :=
  if k.buffer.length < Config.maxFrame then { k with asm := .collecting, buffer := k.buffer ++ [v] }
  else k.receiveError .hunt

/-- An abort mark: the frame in progress ends without an error (R122, R126). -/
def abortFrame (k : LinkState) : LinkState := { k with asm := .hunt, buffer := [] }

/-- The assembler takes a good character that closes no frame (R126). -/
def takeCharacter (k : LinkState) (v : Byte) : LinkState :=
  match k.asm with
  | .held | .settling => k
  | .hunt => if v = delimiter then { k with asm := .collecting, buffer := [] } else k
  | .collecting =>
    if v = delimiter then k
    else if v = escapeByte then { k with asm := .escaped }
    else k.collect v
  | .escaped =>
    if v = delimiter then k.abortFrame
    else if v = 0xBC ∨ v = 0xBD then k.collect (v ^^^ 0x20)
    else k.receiveError .hunt

/-- Whether a character closes a frame (R126): a delimiter in COLLECTING on a buffer that holds bytes. -/
def closes (k : LinkState) (v : Byte) : Bool :=
  decide (k.asm = .collecting) && decide (k.buffer ≠ []) && decide (v = delimiter)

/-- The state the assembler enters at a receive error of a cause, if that cause can arise now (R126, R127, R128). -/
def errorState (k : LinkState) (cause : ReceiveFault) : Option AsmState :=
  match cause, k.asm with
  | .framing, .collecting | .framing, .escaped | .escape, .escaped => some .hunt
  | .overlength, .collecting | .overlength, .escaped => if Config.maxFrame ≤ k.buffer.length then some .hunt else none
  | .shortFrame, .collecting | .crcMismatch, .collecting | .lengthDisagreement, .collecting =>
    match closingCheck k.buffer with
    | .error c => if c = cause ∧ k.buffer ≠ [] then some .collecting else none
    | .ok _ => none
  | _, _ => none

end LinkState

namespace Hub

/-- A good character arrives (R126): it closes the frame in the buffer, or the assembler takes it. -/
def goodCharacter (h : Hub) (l : Link) (v : Byte) : Hub :=
  if (h.link l).closes v then h.closeFrame l else h.modLink l fun k => k.takeCharacter v

/-- A break event (R132, R145, R153, R155): the buffer is thrown away without an error and the assembler settles; an ACTIVE
session ends with cause BREAK, and an ENDING link drops its held HELLO. HELD watches no wire. -/
def lineBreak (h : Hub) (l : Link) : Hub :=
  if (h.link l).asm = .held then h
  else
    let h1 := h.modLink l fun k => { k with asm := .settling, buffer := [] }
    match (h.link l).session with
    | .idle => h1
    | .active => h1.endSession l .lineBreak 0 none
    | .ending => h1.modLink l fun k => { k with heldHello := none }

end Hub

/-- GOOD_CHARACTER (R126). A delimiter that closes a frame has the effect of that frame's row (log entry 11). -/
def execGoodCharacter (l : Link) (v : Byte) (s : State) : Host.Outcome State Fault Refusal :=
  s.onHub fun h => h.goodCharacter l v

/-- RECEIVE_ERROR (R129, R127, R128). A cause that cannot arise in the assembler's state is no event (log entry 2); a framing
error outside a frame is ignored and not counted (R127). -/
def execReceiveError (l : Link) (cause : ReceiveFault) (s : State) : Host.Outcome State Fault Refusal :=
  s.onHub fun h =>
    match (h.link l).errorState cause with
    | some next => h.modLink l fun k => k.receiveError next
    | none => h

/-- ABORT_MARK (R122, R126): the delimiter that completes it arrives in ESCAPED. -/
def execAbortMark (l : Link) (s : State) : Host.Outcome State Fault Refusal :=
  s.onHub fun h => if (h.link l).asm = .escaped then h.modLink l LinkState.abortFrame else h

/-- BREAK (R132). -/
def execLineBreak (l : Link) (s : State) : Host.Outcome State Fault Refusal := s.onHub fun h => h.lineBreak l

/-- SETTLING_COMPLETE (R133). -/
def execSettlingComplete (l : Link) (s : State) : Host.Outcome State Fault Refusal :=
  s.onHub fun h => h.modLink l fun k => if k.asm = .settling then { k with asm := .hunt } else k

end Sys2Proof.Machine
end

