-- ==== Sys2Proof/Machine/Objects.lean ====
section
/-! DEFINITION. The requests on objects of every kind: CREATE_RESOURCE, CREATE_SIGNAL, CREATE_QUEUE, DELETE, LOOKUP, QUERY,
SET_ACCESS. -/

namespace Sys2Proof.Machine

namespace Hub

/-- CREATE_RESOURCE (R24). -/
def createResource (h : Hub) (l : Link) (rq : Request) (c : CreateCommon) (limit robust : Nat) : Hub :=
  match h.createChecks l c with
  | .error e => h.refuse l rq e
  | .ok (i, d) =>
    if limit = 0 ∨ 1 < robust then h.refuse l rq .outOfRange
    else h.create l rq c i d
      (.resource { limit := limit, available := limit, holdings := PerLink.all 0, stranded := 0,
                   robust := decide (robust = 1), waitList := [] })

/-- CREATE_SIGNAL (R25). -/
def createSignal (h : Hub) (l : Link) (rq : Request) (c : CreateCommon) (limit initial : Nat) : Hub :=
  match h.createChecks l c with
  | .error e => h.refuse l rq e
  | .ok (i, d) =>
    if limit = 0 ∨ limit < initial then h.refuse l rq .outOfRange
    else h.create l rq c i d (.signal { limit := limit, count := initial, waitList := [] })

/-- Whether a new area shares a block with the area of a LIVE or DRAINING queue (R70 check 3). -/
def overlapsArea (h : Hub) (base blocks : Nat) : Bool :=
  slotNumbers.any fun i =>
    match (h.objAt i).bind fun o => o.part.queue? with
    | some q => areasShare base blocks q.base q.blocks
    | none => false

/-- The fields of CREATE_QUEUE are in range, and a message of the largest length fits the area (R70 checks 1 and 2). -/
def queueFieldsOk (base blocks maxEntries maxLength present : Nat) : Bool :=
  decide (1 ≤ blocks) && decide (blocks ≤ 64) && decide (base + blocks ≤ 256) && decide (1 ≤ maxEntries)
    && decide (maxLength ≤ 256) && decide (present ≤ 1)
    && decide (footprint maxLength ≤ Config.blockBytes * blocks)

/-- CREATE_QUEUE (R70). -/
def createQueue (h : Hub) (l : Link) (rq : Request) (c : CreateCommon)
    (base blocks maxEntries maxLength threshold present : Nat) (companion : Handle) : Hub :=
  match h.createChecks l c with
  | .error e => h.refuse l rq e
  | .ok (i, d) =>
    if queueFieldsOk base blocks maxEntries maxLength present = false then h.refuse l rq .outOfRange
    else if h.overlapsArea base blocks then h.refuse l rq .overlap
    else
      let q : Queue := { base := base, blocks := blocks, maxEntries := maxEntries, maxLength := maxLength,
                         threshold := threshold, companion := none, nextSeq := 0, messages := [], waitList := [] }
      if present = 0 then h.create l rq c i d (.queue q)
      else
        match h.checkHandle l companion Part.signal? false with
        | .error e => h.refuse l rq e
        | .ok _ => h.create l rq c i d (.queue { q with companion := some companion })

/-- DELETE of a RESOURCE (R15). -/
def deleteResource (h : Hub) (l : Link) (rq : Request) (i : Fin 48) (r : Resource) : Hub :=
  if r.available < r.limit then h.refuse l rq .inUse else (h.freeSlotAt i).reply l rq .ok [] none

/-- DELETE of a SIGNAL (R16): the response first, then the ABANDONED notices in list order (R14), then the slot is freed. -/
def deleteSignal (h : Hub) (l : Link) (rq : Request) (hd : Handle) (i : Fin 48) (g : Signal) : Hub :=
  if h.namedAsCompanion hd then h.refuse l rq .inUse
  else (g.waitList.foldl abandon (h.reply l rq .ok [] none)).freeSlotAt i

/-- DELETE of a QUEUE (R85): waiters abandoned, READY messages spent and reclaimed; FREE when no message is left, DRAINING
when one is claimed. -/
def deleteQueue (h : Hub) (l : Link) (rq : Request) (i : Fin 48) (o : Obj) (q : Queue) : Hub :=
  let h1 := q.waitList.foldl abandon (h.reply l rq .ok [] none)
  let q1 : Queue := { q.spendReady.reclaim with waitList := [] }
  if q1.messages = [] then h1.freeSlotAt i
  else h1.setSlot i { h1.slot i with state := .draining { o with part := .queue q1 } }

/-- DELETE (R14). -/
def delete (h : Hub) (l : Link) (rq : Request) (hd : Handle) : Hub :=
  match h.checkHandle l hd some false with
  | .error e => h.refuse l rq e
  | .ok (i, o, p) =>
    if h.creatorOrManage l o = false then h.refuse l rq .denied
    else
      match p with
      | .resource r => h.deleteResource l rq i r
      | .signal g => h.deleteSignal l rq hd i g
      | .queue q => h.deleteQueue l rq i o q

/-- LOOKUP (R8). -/
def lookup (h : Hub) (l : Link) (rq : Request) (name : List Byte) : Hub :=
  if name = [] ∨ name.all nameByteOk = false then h.refuse l rq .outOfRange
  else
    match h.findName name with
    | none => h.refuse l rq .notFound
    | some i =>
      match h.objAt i with
      | none => h.refuse l rq .notFound
      | some o =>
        if LinkSet.has o.access l then
          h.reply l rq .ok
            (Handle.bytes { slot := i, gen := (h.slot i).gen } ++ [o.part.kindByte, (h.slot i).state.byte]) none
        else h.refuse l rq .denied

end Hub

/-- The kind-specific part of a QUERY response (R41, R91, R181). -/
def Part.snapshot : Part → List Byte
  | .resource r =>
    [byteOf r.limit, byteOf r.available, byteOf r.stranded, if r.robust then 1 else 0, byteOf r.holdings.a,
     byteOf r.holdings.b, byteOf r.holdings.c, byteOf r.holdings.d, byteOf r.waitList.length]
  | .signal g => [byteOf g.limit, byteOf g.count, byteOf g.waitList.length]
  | .queue q =>
    [byteOf q.base, byteOf q.blocks, byteOf q.maxEntries] ++ bytes16 q.maxLength ++ [byteOf q.threshold]
      ++ (match q.companion with
          | some c => 1 :: c.bytes
          | none => [0, 0, 0])
      ++ [byteOf q.messages.length, byteOf q.readyCount, byteOf q.claimedCount] ++ bytes16 q.used ++ bytes16 q.freeBytes
      ++ bytes16 q.nextSeq.toNat ++ [byteOf q.waitList.length]

/-- The QUERY snapshot of an object (R18, R181). -/
def querySnapshot (hd : Handle) (st : SlotState) (o : Obj) : List Byte :=
  hd.bytes ++ [st.byte, o.part.kindByte] ++ namedBytes (o.name.getD [])
    ++ [byteOf (linkNumber o.creator), o.access.zeroExtend 8, o.discipline.byte] ++ o.part.snapshot

namespace Hub

/-- QUERY (R18): answered for a DRAINING slot too. -/
def query (h : Hub) (l : Link) (rq : Request) (hd : Handle) : Hub :=
  match h.checkHandle l hd some true with
  | .error e => h.refuse l rq e
  | .ok (i, o, _) => h.reply l rq .ok (querySnapshot hd (h.slot i).state o) none

/-- SET_ACCESS (R13). -/
def setAccess (h : Hub) (l : Link) (rq : Request) (hd : Handle) (access : Byte) : Hub :=
  match h.checkHandle l hd some false with
  | .error e => h.refuse l rq e
  | .ok (i, o, _) =>
    if h.creatorOrManage l o = false then h.refuse l rq .denied
    else if accessByteOk access && LinkSet.has (linkSetOf access) o.creator then
      (h.modObj i fun o => { o with access := linkSetOf access }).reply l rq .ok [] none
    else h.refuse l rq .outOfRange

end Hub

/-- CREATE_RESOURCE (R11, R12, R24). -/
def execCreateResource (s : State) : Host.Outcome State Fault Refusal :=
  s.onHub fun h => h.onRequest fun l rq h =>
    match rq.body with
    | .createResource c limit robust => some (h.createResource l rq c limit robust)
    | _ => none

/-- CREATE_SIGNAL (R11, R12, R25). -/
def execCreateSignal (s : State) : Host.Outcome State Fault Refusal :=
  s.onHub fun h => h.onRequest fun l rq h =>
    match rq.body with
    | .createSignal c limit initial => some (h.createSignal l rq c limit initial)
    | _ => none

/-- CREATE_QUEUE (R11, R12, R70). -/
def execCreateQueue (s : State) : Host.Outcome State Fault Refusal :=
  s.onHub fun h => h.onRequest fun l rq h =>
    match rq.body with
    | .createQueue c base blocks maxEntries maxLength threshold present companion =>
      some (h.createQueue l rq c base blocks maxEntries maxLength threshold present companion)
    | _ => none

/-- DELETE (R14, R15, R16, R85). -/
def execDelete (s : State) : Host.Outcome State Fault Refusal :=
  s.onHub fun h => h.onRequest fun l rq h =>
    match rq.body with
    | .delete hd => some (h.delete l rq hd)
    | _ => none

/-- LOOKUP (R8). -/
def execLookup (s : State) : Host.Outcome State Fault Refusal :=
  s.onHub fun h => h.onRequest fun l rq h =>
    match rq.body with
    | .lookup name => some (h.lookup l rq name)
    | _ => none

/-- QUERY (R18, R41, R91). -/
def execQuery (s : State) : Host.Outcome State Fault Refusal :=
  s.onHub fun h => h.onRequest fun l rq h =>
    match rq.body with
    | .query hd => some (h.query l rq hd)
    | _ => none

/-- SET_ACCESS (R13). -/
def execSetAccess (s : State) : Host.Outcome State Fault Refusal :=
  s.onHub fun h => h.onRequest fun l rq h =>
    match rq.body with
    | .setAccess hd access => some (h.setAccess l rq hd access)
    | _ => none

end Sys2Proof.Machine
end

