-- ==== Sys2Proof/Machine/Queues.lean ====
section
/-! DEFINITION. The items on queues: SEND, RECEIVE, FLUSH, SPEND_MESSAGE. -/

namespace Sys2Proof.Machine

/-- The message record that an accepted SEND makes (R77). -/
def Queue.newMessage (q : Queue) (payload : List Byte) : Message :=
  { seq := q.nextSeq, length := payload.length, offset := q.writeOffset, state := .ready, deliveries := 0 }

/-- A queue after a message has joined the newest end of its list (R77). -/
def Queue.accept (q : Queue) (m : Message) : Queue := { q with messages := q.messages ++ [m], nextSeq := q.nextSeq + 1 }

namespace Hub

/-- Writes a message's record header and payload to the queue's area (R68, R77). -/
def storeMessage (h : Hub) (q : Queue) (payload : List Byte) : Hub :=
  { h with packetMemory := q.writeBytes h.packetMemory q.writeOffset (Queue.header payload.length ++ payload) }

/-- An accepted SEND (R77): with a receive waiter at the head the message is claimed for it at once; without one it is READY
and the threshold check runs (R80, R81). The response comes first. -/
def acceptSend (h : Hub) (l : Link) (rq : Request) (i : Fin 48) (q : Queue) (payload : List Byte) : Hub :=
  let m := q.newMessage payload
  let h1 := h.storeMessage q payload
  match q.waitList.head?.bind h.findWaiter with
  | some w =>
    let m' := m.claim ⟨w.link, w.session, .notice⟩
    let q' : Queue := { q.accept m' with waitList := q.waitList.tail }
    ((h1.setPart i (.queue q')).reply l rq .ok (bytes16 m.seq.toNat) none).deliver q' w m'
  | none =>
    let q' := q.accept m
    let h2 := (h1.setPart i (.queue q')).reply l rq .ok (bytes16 m.seq.toNat) none
    match q'.crossed q.readyCount q'.readyCount with
    | some c => h2.signalCompanion c
    | none => h2

/-- SEND (R76, R77). -/
def send (h : Hub) (l : Link) (rq : Request) (hd : Handle) (payload : List Byte) : Hub :=
  match h.checkHandle l hd Part.queue? false with
  | .error e => h.refuse l rq e
  | .ok (i, _, q) =>
    if q.maxLength < payload.length then h.refuse l rq .tooLong
    else if q.maxEntries ≤ q.messages.length ∨ q.freeBytes < footprint payload.length then h.refuse l rq .full
    else h.acceptSend l rq i q payload

/-- RECEIVE (R78): the oldest READY message is claimed for the response; without one, EMPTY or the waiter stage. -/
def receive (h : Hub) (ticks : Nat) (l : Link) (rq : Request) (hd : Handle) (priority timeout : Nat) : Hub :=
  match h.checkHandle l hd Part.queue? false with
  | .error e => h.refuse l rq e
  | .ok (i, o, q) =>
    if priorityOk priority && timeoutOk timeout then
      match Queue.claimOldest ⟨l, rq.session, .response⟩ q.messages with
      | some (m, ms) =>
        (h.setPart i (.queue { q with messages := ms })).reply l rq .ok
          (payloadBody hd m.seq m.deliveries (q.payload h.packetMemory m)) (some { queue := hd, seq := m.seq })
      | none =>
        if timeout = 0 then h.refuse l rq .empty
        else
          match h.waiterRefusal l rq.tag with
          | some e => h.refuse l rq e
          | none => h.makeWaiter ticks l rq hd i o.discipline .receive 1 priority timeout
    else h.refuse l rq .outOfRange

/-- FLUSH (R84). -/
def flush (h : Hub) (l : Link) (rq : Request) (hd : Handle) : Hub :=
  match h.checkHandle l hd Part.queue? false with
  | .error e => h.refuse l rq e
  | .ok (i, o, q) =>
    if h.creatorOrManage l o = false then h.refuse l rq .denied
    else (h.setPart i (.queue q.spendReady.reclaim)).reply l rq .ok [byteOf q.readyCount] none

/-- Whether a "spend message" report acts on a message (R82): the sequence is its own, and it is CLAIMED by the reporting
link under the report's session and carrier. -/
def spends (l : Link) (seq : Half) (session : Nat) (c : Carrier) (m : Message) : Bool :=
  decide (m.seq = seq ∧ m.state = .claimed ⟨l, session, c⟩)

/-- A "spend message" report (R82, R112): the matching message becomes SPENT and reclamation runs; a report that matches none
is dropped. -/
def spendMessage (h : Hub) (l : Link) (ref : MessageRef) (session : Nat) (c : Carrier) : Hub :=
  match h.slotOf ref.queue with
  | none => h
  | some i =>
    match (h.objAt i).bind fun o => o.part.queue? with
    | none => h
    | some q =>
      if q.messages.any (spends l ref.seq session c) then
        h.setReclaimed i
          { q with messages := q.messages.map fun m => if spends l ref.seq session c m then { m with state := .spent } else m }
      else h

end Hub

/-- SEND (R76, R77). -/
def execSend (s : State) : Host.Outcome State Fault Refusal :=
  s.onHub fun h => h.onRequest fun l rq h =>
    match rq.body with
    | .send hd payload => some (h.send l rq hd payload)
    | _ => none

/-- RECEIVE (R78). -/
def execReceive (s : State) (ticks : Nat := 0) : Host.Outcome State Fault Refusal :=
  s.onHub fun h => h.onRequest fun l rq h =>
    match rq.body with
    | .receive hd priority timeout => some (h.receive ticks l rq hd priority timeout)
    | _ => none

/-- FLUSH (R84). -/
def execFlush (s : State) : Host.Outcome State Fault Refusal :=
  s.onHub fun h => h.onRequest fun l rq h =>
    match rq.body with
    | .flush hd => some (h.flush l rq hd)
    | _ => none

/-- SPEND_MESSAGE (R82, R112). -/
def execSpendMessage (s : State) : Host.Outcome State Fault Refusal :=
  s.onHub fun h =>
    match h.turn with
    | some (.item l (.spendMessage ref session c)) => (h.takeFrom l).spendMessage l ref session c
    | _ => h

end Sys2Proof.Machine
end

