-- ==== Sys2Proof/Machine/Semaphores.lean ====
section
/-! DEFINITION. The requests on semaphores: RECLAIM, ACQUIRE, RELEASE, SIGNAL, WAIT. -/

namespace Sys2Proof.Machine

namespace Hub

/-- RECLAIM (R35): the MANAGE right, then every stranded token becomes available; the response comes before the pass. -/
def reclaimTokens (h : Hub) (l : Link) (rq : Request) (hd : Handle) : Hub :=
  match h.checkHandle l hd Part.resource? false with
  | .error e => h.refuse l rq e
  | .ok (i, _, r) =>
    if h.manages l = false then h.refuse l rq .denied
    else
      ((h.setPart i (.resource { r with available := r.available + r.stranded, stranded := 0 })).reply l rq .ok
        [byteOf r.stranded] none).grantPass i

/-- An ACQUIRE that cannot be granted at once (R30): UNAVAILABLE, a refusal of the waiter stage, or a waiter; a waiter at
the head of a list that was non-empty is followed by the grant pass. -/
def acquireWait (h : Hub) (ticks : Nat) (l : Link) (rq : Request) (hd : Handle) (i : Fin 48) (o : Obj)
    (amount priority timeout : Nat) : Hub :=
  if timeout = 0 then h.refuse l rq .unavailable
  else
    match h.waiterRefusal l rq.tag with
    | some e => h.refuse l rq e
    | none =>
      let h1 := h.makeWaiter ticks l rq hd i o.discipline .acquire amount priority timeout
      if h.waitListAt i ≠ [] ∧ (h1.waitListAt i).head? = some h1.stampCounter then h1.grantPass i else h1

/-- ACQUIRE (R29, R26, R30). -/
def acquire (h : Hub) (ticks : Nat) (l : Link) (rq : Request) (hd : Handle) (amount priority timeout : Nat) : Hub :=
  match h.checkHandle l hd Part.resource? false with
  | .error e => h.refuse l rq e
  | .ok (i, o, r) =>
    if amount = 0 ∨ r.limit < amount then h.refuse l rq .badAmount
    else if priorityOk priority && timeoutOk timeout then
      if r.waitList = [] ∧ amount ≤ r.available then
        (h.setPart i (.resource { r with available := r.available - amount,
                                         holdings := r.holdings.set l (r.holdings.get l + amount) })).reply l rq .ok [] none
      else h.acquireWait ticks l rq hd i o amount priority timeout
    else h.refuse l rq .outOfRange

/-- RELEASE (R31): the response comes before the grant pass. -/
def release (h : Hub) (l : Link) (rq : Request) (hd : Handle) (amount : Nat) : Hub :=
  match h.checkHandle l hd Part.resource? false with
  | .error e => h.refuse l rq e
  | .ok (i, _, r) =>
    if amount = 0 ∨ r.limit < amount then h.refuse l rq .badAmount
    else if r.holdings.get l < amount then h.refuse l rq .notHeld
    else
      ((h.setPart i (.resource { r with available := r.available + amount,
                                        holdings := r.holdings.set l (r.holdings.get l - amount) })).reply l rq .ok []
        none).grantPass i

/-- SIGNAL (R32): the response comes before the grant pass. -/
def signal (h : Hub) (l : Link) (rq : Request) (hd : Handle) (amount : Nat) : Hub :=
  match h.checkHandle l hd Part.signal? false with
  | .error e => h.refuse l rq e
  | .ok (i, _, g) =>
    if amount = 0 ∨ g.limit < amount then h.refuse l rq .badAmount
    else if g.limit < g.count + amount then h.refuse l rq .overflow
    else ((h.setPart i (.signal { g with count := g.count + amount })).reply l rq .ok [] none).grantPass i

/-- WAIT (R33, R34, R26). -/
def wait (h : Hub) (ticks : Nat) (l : Link) (rq : Request) (hd : Handle) (priority timeout : Nat) : Hub :=
  match h.checkHandle l hd Part.signal? false with
  | .error e => h.refuse l rq e
  | .ok (i, o, g) =>
    if priorityOk priority && timeoutOk timeout then
      if g.waitList = [] ∧ 1 ≤ g.count then
        (h.setPart i (.signal { g with count := g.count - 1 })).reply l rq .ok [] none
      else if timeout = 0 then h.refuse l rq .unavailable
      else
        match h.waiterRefusal l rq.tag with
        | some e => h.refuse l rq e
        | none => h.makeWaiter ticks l rq hd i o.discipline .wait 1 priority timeout
    else h.refuse l rq .outOfRange

end Hub

/-- RECLAIM (R35). -/
def execReclaim (s : State) : Host.Outcome State Fault Refusal :=
  s.onHub fun h => h.onRequest fun l rq h =>
    match rq.body with
    | .reclaim hd => some (h.reclaimTokens l rq hd)
    | _ => none

/-- ACQUIRE (R29, R30). -/
def execAcquire (s : State) (ticks : Nat := 0) : Host.Outcome State Fault Refusal :=
  s.onHub fun h => h.onRequest fun l rq h =>
    match rq.body with
    | .acquire hd amount priority timeout => some (h.acquire ticks l rq hd amount priority timeout)
    | _ => none

/-- RELEASE (R31). -/
def execRelease (s : State) : Host.Outcome State Fault Refusal :=
  s.onHub fun h => h.onRequest fun l rq h =>
    match rq.body with
    | .release hd amount => some (h.release l rq hd amount)
    | _ => none

/-- SIGNAL (R32). -/
def execSignal (s : State) : Host.Outcome State Fault Refusal :=
  s.onHub fun h => h.onRequest fun l rq h =>
    match rq.body with
    | .signal hd amount => some (h.signal l rq hd amount)
    | _ => none

/-- WAIT (R33, R34). -/
def execWait (s : State) (ticks : Nat := 0) : Host.Outcome State Fault Refusal :=
  s.onHub fun h => h.onRequest fun l rq h =>
    match rq.body with
    | .wait hd priority timeout => some (h.wait ticks l rq hd priority timeout)
    | _ => none

end Sys2Proof.Machine
end

