-- ==== Sys2Proof/Machine/Waiters.lean ====
section
/-! DEFINITION. The items on waiter records: CANCEL, FREE_WAITER, EXPIRY. -/

namespace Sys2Proof.Machine

namespace Hub

/-- Whether a record stands at the head of its object's wait list. -/
def isHead (h : Hub) (i : Fin 48) (st : Stamp) : Bool := (h.waitListAt i).head? == some st

/-- CANCEL of a WAITING record (R59, R37): it leaves its wait list, its deadline entry's removal is claimed, it is freed; the
response carries the handle it named, and the grant pass follows if it was the head. -/
def cancelWaiting (h : Hub) (l : Link) (rq : Request) (w : Waiter) : Hub :=
  let freed (h : Hub) : Hub := (if w.deadline.isSome then h.removeClaim w.stamp else h).freeRecord w.stamp
  match h.slotOf w.object with
  | some i =>
    ((freed (h.leaveWaitList i w.stamp)).reply l rq .ok w.object.bytes none).passIfHead i (h.isHead i w.stamp)
  | none => (freed h).reply l rq .ok w.object.bytes none

/-- CANCEL (R59, R60). -/
def cancel (h : Hub) (l : Link) (rq : Request) (tag : Byte) : Hub :=
  match h.findTag l tag with
  | none => h.refuse l rq .notFound
  | some w => if w.state = .waiting then h.cancelWaiting l rq w else h.refuse l rq .tooLate

/-- A "free waiter" report (R61, R112): a record that is no longer WAITING is freed; a stamp that none carries is dropped. -/
def freeWaiter (h : Hub) (st : Stamp) : Hub :=
  match h.findWaiter st with
  | some w => if w.state = .waiting then h else h.freeRecord st
  | none => h

/-- A WAITING record becomes EXPIRED, with its notice (R56); its deadline entry has been moved, so no removal is claimed. -/
def expireRecord (h : Hub) (w : Waiter) : Hub :=
  (h.modWaiter w.stamp fun x => { x with state := .expired }).notice w noticeExpired w.object.bytes none

/-- An expiry item (R56, R37, R101): a WAITING record leaves its wait list and becomes EXPIRED, and the grant pass runs if it
was the head of a semaphore's list; otherwise the item is dropped. -/
def expire (h : Hub) (st : Stamp) : Hub :=
  match h.findWaiter st with
  | none => h
  | some w =>
    if w.state = .waiting then
      match h.slotOf w.object with
      | some i => ((h.leaveWaitList i st).expireRecord w).passIfHead i (h.isHead i st)
      | none => h.expireRecord w
    else h

end Hub

/-- CANCEL (R59, R60). -/
def execCancel (s : State) : Host.Outcome State Fault Refusal :=
  s.onHub fun h => h.onRequest fun l rq h =>
    match rq.body with
    | .cancel tag => some (h.cancel l rq tag)
    | _ => none

/-- FREE_WAITER (R61, R112). -/
def execFreeWaiter (s : State) : Host.Outcome State Fault Refusal :=
  s.onHub fun h =>
    match h.turn with
    | some (.item l (.freeWaiter st)) => (h.takeFrom l).freeWaiter st
    | _ => h

/-- EXPIRY (R56, R100): as the item is taken, an entry that waited for room on intake T is moved (R99). -/
def execExpiry (s : State) : Host.Outcome State Fault Refusal :=
  s.onHub fun h =>
    match h.turn with
    | some (.expiry st) => h.takeExpiry.moveDue.expire st
    | _ => h

end Sys2Proof.Machine
end

