-- ==== Sys2Proof/Machine/Dispatch.lean ====
section
/-! DEFINITION. The meaning of each command. -/

namespace Sys2Proof.Machine

def exec (i : Instr) (s : State) : Host.Outcome State Fault Refusal :=
  match i with
  | .pinReset straps => Sys2Proof.Machine.execPinReset straps s
  | .tickEvent => Sys2Proof.Machine.execTickEvent s
  | .deadlineDue => Sys2Proof.Machine.execDeadlineDue s
  | .keepaliveLapse l => Sys2Proof.Machine.execKeepaliveLapse l s
  | .lineBreak l => Sys2Proof.Machine.execLineBreak l s
  | .settlingComplete l => Sys2Proof.Machine.execSettlingComplete l s
  | .receiveError l cause => Sys2Proof.Machine.execReceiveError l cause s
  | .abortMark l => Sys2Proof.Machine.execAbortMark l s
  | .unknownKind l => Sys2Proof.Machine.execUnknownKind l s
  | .hello l => Sys2Proof.Machine.execHello l s
  | .bye l => Sys2Proof.Machine.execBye l s
  | .ping l => Sys2Proof.Machine.execPing l s
  | .linkStatus l => Sys2Proof.Machine.execLinkStatus l s
  | .objectRequest l => Sys2Proof.Machine.execObjectRequest l s
  | .sessionEndTeardown l => Sys2Proof.Machine.execSessionEndTeardown l s
  | .frameComplete l => Sys2Proof.Machine.execFrameComplete l s
  | .createResource => Sys2Proof.Machine.execCreateResource s
  | .createSignal => Sys2Proof.Machine.execCreateSignal s
  | .createQueue => Sys2Proof.Machine.execCreateQueue s
  | .delete => Sys2Proof.Machine.execDelete s
  | .lookup => Sys2Proof.Machine.execLookup s
  | .query => Sys2Proof.Machine.execQuery s
  | .setAccess => Sys2Proof.Machine.execSetAccess s
  | .reclaim => Sys2Proof.Machine.execReclaim s
  | .acquire ticks => Sys2Proof.Machine.execAcquire s ticks
  | .release => Sys2Proof.Machine.execRelease s
  | .signal => Sys2Proof.Machine.execSignal s
  | .wait ticks => Sys2Proof.Machine.execWait s ticks
  | .cancel => Sys2Proof.Machine.execCancel s
  | .send => Sys2Proof.Machine.execSend s
  | .receive ticks => Sys2Proof.Machine.execReceive s ticks
  | .flush => Sys2Proof.Machine.execFlush s
  | .evict => Sys2Proof.Machine.execEvict s
  | .hubReset => Sys2Proof.Machine.execHubReset s
  | .freeWaiter => Sys2Proof.Machine.execFreeWaiter s
  | .spendMessage => Sys2Proof.Machine.execSpendMessage s
  | .purge => Sys2Proof.Machine.execPurge s
  | .expiry => Sys2Proof.Machine.execExpiry s
  | .goodCharacter l v => Sys2Proof.Machine.execGoodCharacter l v s

end Sys2Proof.Machine
end

