-- ==== Sys2Proof/Machine/Idle.lean ====
section
/-! DEFINITION. What passes while no command is waiting: one character time on every transmit wire. -/

namespace Sys2Proof.Machine

/-- One character time (R120, R135): each transmitter sends the character in progress. DESIGN CHOICE (log entry 4): the table
has no row for it, so it is what a step does on an empty queue. -/
def Hub.charTime (h : Hub) : Hub := Link.all.foldl (fun h l => h.modLink l LinkState.charTime) h

/-- The step on an empty command queue. -/
def execIdle (s : State) : Host.Outcome State Fault Refusal := s.onHub Hub.charTime

end Sys2Proof.Machine
end

