-- ==== Sys2Proof/Machine/Step.lean ====
section
/-! DEFINITION. One step: the command at the front of the queue, or one character time when none waits. -/

namespace Sys2Proof.Machine

/-- The command at the front of the queue is taken and performed on the state with the rest of the queue. -/
def step (s : State) : Host.Outcome State Fault Refusal :=
  match s.pending with
  | [] => execIdle s
  | c :: rest => exec c { s with pending := rest }

/-- The state with the command that a table word spells at the front of its queue; no word spells one (log entry 19). -/
def State.withFetchWord (s : State) (nbits w : Nat) : State :=
  match decodeTableWord nbits w with
  | some c => { s with pending := c :: s.pending }
  | none => s

end Sys2Proof.Machine
end

