-- ==== Sys2Proof/Safety.lean ====
section
/-! DEFINITION. What the statements speak of: the command of a request, the checks of every request in their order, and the
invariants of the hub. -/

namespace Sys2Proof

/-- The commands that find a tick event's work done before they begin (log entry 3). -/
def Instr.catchesUp : Instr → Bool
  | .deadlineDue | .keepaliveLapse _ => false
  | .pinReset _ | .tickEvent | .lineBreak _ | .settlingComplete _ | .receiveError _ _ | .abortMark _ | .unknownKind _
  | .hello _ | .bye _ | .ping _ | .linkStatus _ | .objectRequest _ | .sessionEndTeardown _ | .frameComplete _
  | .createResource | .createSignal | .createQueue | .delete | .lookup | .query | .setAccess | .reclaim | .acquire _
  | .release | .signal | .wait _ | .cancel | .send | .receive _ | .flush | .evict | .hubReset | .freeWaiter | .spendMessage
  | .purge | .expiry | .goodCharacter _ _ => true

/-- The commands by which the engine takes an item (R108). -/
def Instr.takesItem : Instr → Bool
  | .createResource | .createSignal | .createQueue | .delete | .lookup | .query | .setAccess | .reclaim | .acquire _
  | .release | .signal | .wait _ | .cancel | .send | .receive _ | .flush | .evict | .hubReset | .freeWaiter | .spendMessage
  | .purge | .expiry => true
  | .pinReset _ | .tickEvent | .deadlineDue | .keepaliveLapse _ | .lineBreak _ | .settlingComplete _ | .receiveError _ _
  | .abortMark _ | .unknownKind _ | .hello _ | .bye _ | .ping _ | .linkStatus _ | .objectRequest _
  | .sessionEndTeardown _ | .frameComplete _ | .goodCharacter _ _ => false

/-- The tick events that a command lets fall within its engine item, before the insert claim (R97; log entry 27). -/
def Instr.ticks : Instr → Nat
  | .acquire n | .wait n | .receive n => n
  | .pinReset _ | .tickEvent | .deadlineDue | .keepaliveLapse _ | .lineBreak _ | .settlingComplete _ | .receiveError _ _
  | .abortMark _ | .unknownKind _ | .hello _ | .bye _ | .ping _ | .linkStatus _ | .objectRequest _
  | .sessionEndTeardown _ | .frameComplete _ | .createResource | .createSignal | .createQueue | .delete | .lookup
  | .query | .setAccess | .reclaim | .release | .signal | .cancel | .send | .flush | .evict | .hubReset | .freeWaiter
  | .spendMessage | .purge | .expiry | .goodCharacter _ _ => 0

namespace Machine

/-- A state with another hub; the command queue stays. -/
def State.withHub (s : State) (h : Hub) : State := { s with toHub := h }

/-! ### Requests and their checks -/

/-- The row whose command takes a request of this body; `ticks` is its operand where it has one (log entry 27). -/
def ObjReq.command (ticks : Nat) : ObjReq → Instr
  | .createResource .. => .createResource | .createSignal .. => .createSignal | .createQueue .. => .createQueue
  | .delete _ => .delete | .lookup _ => .lookup | .query _ => .query | .setAccess .. => .setAccess
  | .reclaim _ => .reclaim | .acquire .. => .acquire ticks | .release .. => .release | .signal .. => .signal
  | .wait .. => .wait ticks | .cancel _ => .cancel | .send .. => .send | .receive .. => .receive ticks | .flush _ => .flush
  | .evict _ => .evict | .hubReset => .hubReset

/-- The row whose command takes an item; `ticks` is its operand where it has one. -/
def Turn.command (ticks : Nat) : Turn → Instr
  | .item _ (.request rq) => rq.body.command ticks
  | .item _ (.freeWaiter _) => .freeWaiter
  | .item _ (.spendMessage ..) => .spendMessage
  | .item _ .purge => .purge
  | .expiry _ => .expiry

/-- The code of the first check that fails. -/
def firstFailing : List (Bool × ResultCode) → Option ResultCode
  | [] => none
  | (fails, code) :: more => if fails then some code else firstFailing more

namespace Hub

/-- The hub with the LIVE object `o` of slot `i` given another kind-specific part. -/
def setLive (h : Hub) (i : Fin 48) (o : Obj) (p : Part) : Hub :=
  h.setSlot i { h.slot i with state := .live { o with part := p } }

/-- The arbiter's next item is this request of link `l` (R108). -/
abbrev Takes (h : Hub) (l : Link) (rq : Request) : Prop := h.turn = some (.item l (.request rq))

/-- The object that a handle names while it is valid (R4). -/
def objOf (h : Hub) (hd : Handle) : Option Obj := (h.slotOf hd).bind h.objAt

def resourceOf (h : Hub) (hd : Handle) : Option Resource := (h.objOf hd).bind fun o => o.part.resource?

def signalOf (h : Hub) (hd : Handle) : Option Signal := (h.objOf hd).bind fun o => o.part.signal?

def queueOf (h : Hub) (hd : Handle) : Option Queue := (h.objOf hd).bind fun o => o.part.queue?

/-- The handle names a DRAINING slot. -/
def drainingAt (h : Hub) (hd : Handle) : Bool :=
  (h.slotOf hd).any fun i =>
    match (h.slot i).state with
    | .draining _ => true
    | .free | .live _ => false

/-- The common checks (R5). -/
def handleChecks (h : Hub) (l : Link) (hd : Handle) (kindOk : Part → Bool) (isQuery : Bool) : List (Bool × ResultCode) :=
  [(decide (47 < hd.slot), .badHandle), ((h.slotOf hd).isNone, .stale), (!isQuery && h.drainingAt hd, .draining),
   (!(h.objOf hd).any (fun o => kindOk o.part), .wrongKind), (!(h.objOf hd).any (fun o => LinkSet.has o.access l), .denied)]

/-- The creator-or-MANAGE right (R6). -/
def rightCheck (h : Hub) (l : Link) (hd : Handle) : List (Bool × ResultCode) :=
  [(!(h.objOf hd).any (fun o => decide (o.creator = l) || h.manages l), .denied)]

/-- Checks 1 to 3 of a CREATE request (R11). -/
def createChecklist (h : Hub) (l : Link) (c : CreateCommon) : List (Bool × ResultCode) :=
  [(decide (c.name ≠ []) && (h.findName c.name).isSome, .nameTaken),
   (h.lowestFree.isNone, .noSlot),
   (!(c.name.all nameByteOk) || decide (1 < c.discipline) || !(accessByteOk c.access)
      || !(LinkSet.has (linkSetOf c.access) l), .outOfRange)]

/-- The ends of a request that cannot be met at once, other than a waiter (R30, R34, R48, R78). -/
def waitChecks (h : Hub) (l : Link) (tag : Byte) (blocked : Bool) (timeout : Nat) (code : ResultCode) :
    List (Bool × ResultCode) :=
  [(blocked && decide (timeout = 0), code),
   (blocked && h.waiters.any (fun w => decide (w.link = l ∧ w.tag = tag)), .tagInUse),
   (blocked && decide (24 ≤ h.owned l), .noWaiter)]

/-- An ACQUIRE cannot be granted at once (R26, R30). -/
def acquireBlocked (h : Hub) (hd : Handle) (amount : Nat) : Bool :=
  (h.resourceOf hd).any fun r => decide (r.waitList ≠ []) || decide (r.available < amount)

/-- A WAIT cannot be satisfied at once (R26, R34). -/
def waitBlocked (h : Hub) (hd : Handle) : Bool :=
  (h.signalOf hd).any fun g => decide (g.waitList ≠ []) || decide (g.count = 0)

/-- A RECEIVE finds no READY message (R78). -/
def receiveBlocked (h : Hub) (hd : Handle) : Bool := (h.queueOf hd).any fun q => decide (q.readyCount = 0)

/-- The priority or the timeout is out of range (R29, R33, R49, R78). -/
def waitFieldsBad (priority timeout : Nat) : Bool :=
  decide (7 < priority) || (decide (60001 ≤ timeout) && decide (timeout ≤ 65534)) || decide (65535 < timeout)

/-- The checks of each request, in their order, with the result each gives (R5 to R86, R114, R115). -/
def checks (h : Hub) (l : Link) (rq : Request) : List (Bool × ResultCode) :=
  match rq.body with
  | .createResource c limit robust => h.createChecklist l c ++ [(decide (limit = 0 ∨ 1 < robust), .outOfRange)]
  | .createSignal c limit initial => h.createChecklist l c ++ [(decide (limit = 0 ∨ limit < initial), .outOfRange)]
  | .createQueue c base blocks maxEntries maxLength _ present companion =>
    h.createChecklist l c ++
      [(decide (blocks = 0 ∨ 64 < blocks ∨ 256 < base + blocks ∨ maxEntries = 0 ∨ 256 < maxLength ∨ 1 < present), .outOfRange),
       (decide (64 * blocks < footprint maxLength), .outOfRange),
       (h.overlapsArea base blocks, .overlap)] ++
      (if present = 0 then [] else h.handleChecks l companion (fun p => p.signal?.isSome) false)
  | .delete hd =>
    h.handleChecks l hd (fun _ => true) false ++ h.rightCheck l hd ++
      [((h.resourceOf hd).any (fun r => decide (r.available < r.limit))
          || ((h.signalOf hd).isSome && h.namedAsCompanion hd), .inUse)]
  | .lookup name =>
    [(decide (name = []) || !(name.all nameByteOk), .outOfRange), ((h.findName name).isNone, .notFound),
     (!((h.findName name).bind h.objAt).any (fun o => LinkSet.has o.access l), .denied)]
  | .query hd => h.handleChecks l hd (fun _ => true) true
  | .setAccess hd access =>
    h.handleChecks l hd (fun _ => true) false ++ h.rightCheck l hd ++
      [(!(accessByteOk access) || !(h.objOf hd).any (fun o => LinkSet.has (linkSetOf access) o.creator), .outOfRange)]
  | .reclaim hd => h.handleChecks l hd (fun p => p.resource?.isSome) false ++ [(!(h.manages l), .denied)]
  | .acquire hd amount priority timeout =>
    h.handleChecks l hd (fun p => p.resource?.isSome) false ++
      [(decide (amount = 0) || (h.resourceOf hd).any (fun r => decide (r.limit < amount)), .badAmount),
       (waitFieldsBad priority timeout, .outOfRange)] ++
      h.waitChecks l rq.tag (h.acquireBlocked hd amount) timeout .unavailable
  | .release hd amount =>
    h.handleChecks l hd (fun p => p.resource?.isSome) false ++
      [(decide (amount = 0) || (h.resourceOf hd).any (fun r => decide (r.limit < amount)), .badAmount),
       ((h.resourceOf hd).any (fun r => decide (r.holdings.get l < amount)), .notHeld)]
  | .signal hd amount =>
    h.handleChecks l hd (fun p => p.signal?.isSome) false ++
      [(decide (amount = 0) || (h.signalOf hd).any (fun g => decide (g.limit < amount)), .badAmount),
       ((h.signalOf hd).any (fun g => decide (g.limit < g.count + amount)), .overflow)]
  | .wait hd priority timeout =>
    h.handleChecks l hd (fun p => p.signal?.isSome) false ++ [(waitFieldsBad priority timeout, .outOfRange)] ++
      h.waitChecks l rq.tag (h.waitBlocked hd) timeout .unavailable
  | .cancel tag =>
    [((h.findTag l tag).isNone, .notFound), ((h.findTag l tag).any (fun w => decide (w.state ≠ .waiting)), .tooLate)]
  | .send hd payload =>
    h.handleChecks l hd (fun p => p.queue?.isSome) false ++
      [((h.queueOf hd).any (fun q => decide (q.maxLength < payload.length)), .tooLong),
       ((h.queueOf hd).any (fun q => decide (q.maxEntries ≤ q.messages.length ∨ q.freeBytes < footprint payload.length)),
        .full)]
  | .receive hd priority timeout =>
    h.handleChecks l hd (fun p => p.queue?.isSome) false ++ [(waitFieldsBad priority timeout, .outOfRange)] ++
      h.waitChecks l rq.tag (h.receiveBlocked hd) timeout .empty
  | .flush hd => h.handleChecks l hd (fun p => p.queue?.isSome) false ++ h.rightCheck l hd
  | .evict target => [(!(h.manages l), .denied), ((linkOf target).isNone || decide (linkOf target = some l), .outOfRange)]
  | .hubReset => [(!(h.manages l), .denied)]

/-- The code with which a request is refused, if one of its checks fails (R111). -/
def refusal (h : Hub) (l : Link) (rq : Request) : Option ResultCode := firstFailing (h.checks l rq)

end Hub

/-! ### Frames that a delimiter closes -/

/-- The row of a good frame, by its kind (R130, R177). -/
def RxFrame.command (f : RxFrame) (l : Link) : Instr :=
  match ReqKind.ofCode f.kind with
  | none => .unknownKind l
  | some .hello => .hello l
  | some .bye => .bye l
  | some .ping => .ping l
  | some .linkStatus => .linkStatus l
  | some _ => .objectRequest l

/-- A delimiter would now close this good frame at a link (R126, R128). -/
abbrev Hub.ClosesOn (h : Hub) (l : Link) (f : RxFrame) : Prop :=
  (h.link l).asm = .collecting ∧ closingCheck (h.link l).buffer = .ok f

/-- A link's record once a good frame has closed: the buffer is empty, and an ACTIVE link's keepalive count is set back to
its interval (R126, R151). -/
def LinkState.frameClosed (k : LinkState) : LinkState :=
  { k with buffer := [],
           keepaliveCount := if k.session = .active ∧ k.keepalive ≠ 0 then some k.keepalive else k.keepaliveCount }

/-- A link's record once a good frame has closed and taken service slot `i` (R161). -/
def LinkState.accepted (k : LinkState) (i : Fin 4) : LinkState :=
  { k.frameClosed with window := k.window.set i (some k.sessionNo) }

/-- The link's own answer to the frame that holds slot `i`, appended to its transmit list (R134, R166). -/
def LinkState.answer (k : LinkState) (i : Fin 4) (f : RxFrame) (code : ResultCode) (body : List Byte) : LinkState :=
  k.enqueue false
    { cls := .response i, frame := { kind := f.kind + 0x80, tag := f.tag, status := code.byte, body := body },
      session := none, msg := none }

/-- A slot number is the lowest-numbered free one (R161). -/
abbrev LinkState.LowestFree (k : LinkState) (i : Fin 4) : Prop := k.window[i] = none ∧ ∀ j : Fin 4, j < i → k.window[j] ≠ none

/-- Every service slot is held (R163). -/
abbrev LinkState.WindowFull (k : LinkState) : Prop := ∀ i : Fin 4, k.window[i] ≠ none

/-- `h'` is `h` after the timebase has moved the due entries (R99): the longest run of due entries at the head of the deadline
list, as far as intake T has room, stands at the tail of intake T in the same order. -/
def Hub.DueMovedTo (h h' : Hub) : Prop :=
  ∃ moved, h.deadlines = moved ++ h'.deadlines ∧
    h'.expiryIntake = h.expiryIntake ++ moved.map DeadlineEntry.stamp ∧
    (∀ e ∈ moved, tickDue e.deadline h.tick = true) ∧
    (moved ≠ [] → h'.expiryIntake.length ≤ 96) ∧
    ∀ e, h'.deadlines.head? = some e → tickDue e.deadline h.tick = true → 96 ≤ h'.expiryIntake.length

/-! ### Invariants -/

/-- The tokens of a RESOURCE are accounted for (R21, R22). -/
def Resource.Balanced (r : Resource) : Prop :=
  r.available + (r.holdings.a + r.holdings.b + r.holdings.c + r.holdings.d) + r.stranded = r.limit ∧
    (r.robust = true → r.stranded = 0)

/-- A SIGNAL's count is at most its limit (R23). -/
def Signal.Bounded (g : Signal) : Prop := g.count ≤ g.limit

/-- The messages of a queue fit its area and its entries, and the oldest is not SPENT (R70, R74, R75). -/
def Queue.Fits (q : Queue) : Prop :=
  1 ≤ q.blocks ∧ q.blocks ≤ 64 ∧ q.base + q.blocks ≤ 256 ∧ q.used ≤ q.areaBytes ∧ q.messages.length ≤ q.maxEntries ∧
    (q.messages.head?.map Message.isSpent ≠ some true) ∧ ∀ m ∈ q.messages, m.length ≤ q.maxLength

/-- The retained messages stand one behind another round the area, with rising sequences, up to the place and the sequence
of the next message (R68, R72). -/
def Queue.chained (q : Queue) : List Message → Bool
  | [] => true
  | [m] => decide (m.seq + 1 = q.nextSeq)
  | m :: m' :: ms =>
    decide (m'.seq = m.seq + 1) && decide (m'.offset = (m.offset + footprint m.length) % q.areaBytes) &&
      q.chained (m' :: ms)

namespace Hub

/-- Every packet-memory byte is listed at most once, in order, and only where it differs from an unwritten one. -/
abbrev MemoryCanonical (h : Hub) : Prop := Memory.wf h.packetMemory = true

/-- Generations run from 1 to 255 (R3). -/
def GenerationsLegal (h : Hub) : Prop := ∀ i, 1 ≤ (h.slot i).gen ∧ (h.slot i).gen ≤ 255

/-- Tokens are neither made nor lost, and signal counts stay in range (R21, R22, R23). -/
def TokensConserved (h : Hub) : Prop :=
  ∀ i o, h.objAt i = some o →
    (∀ r, o.part = .resource r → r.Balanced) ∧ (∀ g, o.part = .signal g → g.Bounded)

/-- Every object request on an intake carries the fields that a well-formed body spells, so a name of at most 8 bytes and a
payload of at most 256 (R150, R178, R179). -/
def RequestsSpelled (h : Hub) : Prop :=
  ∀ l rq, .request rq ∈ h.intake l →
    ∃ k body, bodyWellFormed k body = true ∧ requestOf k rq.tag body = .object rq.body

/-- A name has 1 to 8 bytes, each of them legal, and no two objects share one; an access set holds its creator (R7, R9). -/
def NamesAndAccess (h : Hub) : Prop :=
  (∀ i o, h.objAt i = some o →
    LinkSet.has o.access o.creator = true ∧
      ∀ n, o.name = some n → n ≠ [] ∧ n.length ≤ 8 ∧ n.all nameByteOk = true) ∧
  ∀ i j oi oj n, h.objAt i = some oi → h.objAt j = some oj → oi.name = some n → oj.name = some n → i = j

/-- Queue areas do not overlap, and every queue's messages fit its area, chained in order; a DRAINING slot holds a queue with
a claimed message and none READY (R70, R72, R74, R86). -/
def QueuesSound (h : Hub) : Prop :=
  (∀ i o q, h.objAt i = some o → o.part = .queue q → q.Fits ∧ q.chained q.messages = true) ∧
  (∀ i j oi oj qi qj, h.objAt i = some oi → h.objAt j = some oj → oi.part = .queue qi → oj.part = .queue qj → i ≠ j →
    areasShare qi.base qi.blocks qj.base qj.blocks = false) ∧
  ∀ i o, (h.slot i).state = .draining o →
    ∃ q, o.part = .queue q ∧ q.waitList = [] ∧ q.readyCount = 0 ∧ 1 ≤ q.claimedCount

/-- The stamps of the records in use are distinct, at least 1, and at most the arrival stamp counter (R45). -/
abbrev StampsDistinct (h : Hub) : Prop :=
  (h.waiters.map Waiter.stamp).Nodup ∧ ∀ w ∈ h.waiters, 1 ≤ w.stamp ∧ w.stamp ≤ h.stampCounter

/-- A link's records carry distinct tags, and a link owns at most 24 (R46, R47). -/
def TagsDistinct (h : Hub) : Prop :=
  ∀ l, ((h.waiters.filter fun w => decide (w.link = l)).map Waiter.tag).Nodup ∧ h.owned l ≤ 24

/-- The deadline list and intake T (R96, R99, R100): a stamp stands at most once, in the list or on intake T; each holds at
most 96; an entry stands for a WAITING record and carries its deadline; and a WAITING record with a deadline has an entry, in
the list or already moved. -/
def DeadlinesSound (h : Hub) : Prop :=
  (h.deadlines.map DeadlineEntry.stamp ++ h.expiryIntake).Nodup ∧
  h.deadlines.length ≤ 96 ∧ h.expiryIntake.length ≤ 96 ∧
  (∀ st ∈ h.expiryIntake, st ≤ h.stampCounter) ∧
  (∀ e ∈ h.deadlines, ∃ w ∈ h.waiters, w.stamp = e.stamp ∧ w.state = .waiting ∧ w.deadline = some e.deadline) ∧
  ∀ w ∈ h.waiters, w.state = .waiting → w.deadline ≠ none →
    w.stamp ∈ h.deadlines.map DeadlineEntry.stamp ++ h.expiryIntake

/-- The entries of the deadline list stand earlier first, and equal deadlines in the order of their stamps (R96). -/
def DeadlinesOrdered (h : Hub) : Prop :=
  h.deadlines.Pairwise fun e later =>
    tickEarlier later.deadline e.deadline = false ∧ (e.deadline = later.deadline → e.stamp < later.stamp)

/-- Every deadline of the list lies within 2^30 ticks of the counter, before or after it, so that the deadlines stand in a
consistent earlier order (R95). -/
def DeadlinesNear (h : Hub) : Prop :=
  ∀ e ∈ h.deadlines, (e.deadline - h.tick + 1073741824).toNat < 2147483648

/-- The record of a stamp waits on the object of slot `i`. -/
def WaitsAt (h : Hub) (i : Fin 48) (w : Waiter) : Prop :=
  w ∈ h.waiters ∧ w.state = .waiting ∧ w.object = { slot := i, gen := (h.slot i).gen }

/-- A record stands in a wait list exactly while it is WAITING, in that of the object it names and only once (R51); it waits
by the operation of the object's kind, and asks a RESOURCE for 1 up to its limit. -/
def WaitListsSound (h : Hub) : Prop :=
  (∀ i, (h.waitListAt i).Nodup) ∧
  (∀ i st, st ∈ h.waitListAt i → ∃ w, h.WaitsAt i w ∧ w.stamp = st) ∧
  (∀ w ∈ h.waiters, w.state = .waiting → ∃ i, h.WaitsAt i w ∧ w.stamp ∈ h.waitListAt i) ∧
  ∀ i o w, h.objAt i = some o → h.WaitsAt i w →
    match o.part with
    | .resource r => w.op = .acquire ∧ 1 ≤ w.amount ∧ w.amount ≤ r.limit
    | .signal _ => w.op = .wait ∧ w.amount = 1
    | .queue _ => w.op = .receive ∧ w.amount = 1

/-- No list holds a head that could be satisfied: the law of the grant pass (R27) and of the queues (R72). -/
def NothingOverdue (h : Hub) : Prop :=
  ∀ i o st rest w, h.objAt i = some o → o.part.waitList = st :: rest → h.findWaiter st = some w →
    match o.part with
    | .resource r => r.available < w.amount
    | .signal g => g.count = 0
    | .queue q => q.readyCount = 0

/-- The number of purge items on an intake. -/
def purgesOn (h : Hub) (l : Link) : Nat := (h.intake l).countP fun i => i == .purge

/-- A link is ENDING exactly while its teardown is outstanding or its purge item is on its intake, and never both; only an
ENDING link holds a HELLO (R145, R154, R157). Nothing is in transmission once step 2 has let a frame complete. -/
def SessionsSound (h : Hub) : Prop :=
  ∀ l,
    ((h.link l).session = .ending → ((h.link l).teardown.isSome = true ∧ h.purgesOn l = 0) ∨
      ((h.link l).teardown = none ∧ h.purgesOn l = 1)) ∧
    ((h.link l).session ≠ .ending → (h.link l).teardown = none ∧ (h.link l).heldHello = none ∧ h.purgesOn l = 0) ∧
    ∀ e, (h.link l).teardown = some e → e.delimiterSent = true → (h.link l).tx = none

end Hub

/-- A transmit item's service slot, if it is a response. -/
def TxItem.slot? (i : TxItem) : Option (Fin 4) :=
  match i.cls with
  | .response s => some s
  | .waiterNotice _ | .sessionNotice => none

/-- The object request of an intake item, if it is one. -/
def Item.request? : Item → Option Request
  | .request r => some r
  | .freeWaiter _ | .spendMessage .. | .purge => none

/-- Every response on a transmit list and every request on an intake holds a service slot of its own, and the requests on an
intake are of the link's present session, which has not been taken down (R106, R161, R168). -/
def Hub.ServiceSlotsSound (h : Hub) : Prop :=
  ∀ l,
    ((h.link l).txList.filterMap TxItem.slot? ++ ((h.intake l).filterMap Item.request?).map Request.slot).Nodup ∧
    (∀ i ∈ (h.link l).txList.filterMap TxItem.slot? ++ ((h.intake l).filterMap Item.request?).map Request.slot,
      (h.link l).window[i] ≠ none) ∧
    ∀ r ∈ (h.intake l).filterMap Item.request?,
      r.session = (h.link l).sessionNo ∧
        ((h.link l).session = .active ∨ ((h.link l).session = .ending ∧ (h.link l).teardown ≠ none))

/-- The counters and the session record of a link hold values the manual allows: the session number is 0..255 and not 0 in a
session, the keepalive interval is 0 or 100..60,000, and the count stands exactly in an ACTIVE session with an interval other
than 0 (R129, R139, R140, R142, R151, R164). -/
def LinkState.InRange (k : LinkState) : Prop :=
  k.frameErrors ≤ 65535 ∧ k.overruns ≤ 65535 ∧ k.sessionsBegun ≤ 65535 ∧ k.sessionNo ≤ 255 ∧
  (k.session ≠ .idle → 1 ≤ k.sessionNo) ∧
  (k.keepalive = 0 ∨ (100 ≤ k.keepalive ∧ k.keepalive ≤ 60000)) ∧
  (k.session = .active → (k.keepaliveCount = none ↔ k.keepalive = 0)) ∧
  (k.session ≠ .active → k.keepaliveCount = none) ∧
  (∀ n, k.keepaliveCount = some n → n ≤ k.keepalive) ∧
  k.buffer.length ≤ 306 ∧
  (k.asm = .held ∨ k.asm = .settling ∨ k.asm = .hunt → k.buffer = [])

/-- The transmitter sends the head item of a non-empty list (R169), unless the session is being taken down; its last character
is the closing delimiter. -/
def LinkState.Transmitting (k : LinkState) : Prop :=
  (k.tx = none → k.txList = [] ∨ k.teardown.isSome = true) ∧
  (∀ t, k.tx = some t → k.txList ≠ [] ∧ t.rest.getLast? = some delimiter)

namespace Hub

def LinksInRange (h : Hub) : Prop := ∀ l, (h.link l).InRange

def LinksTransmitting (h : Hub) : Prop := ∀ l, (h.link l).Transmitting

/-- The invariants of the engine's records, which hold together. -/
def EngineSound (h : Hub) : Prop :=
  h.TokensConserved ∧ h.QueuesSound ∧ h.StampsDistinct ∧ h.TagsDistinct ∧ h.WaitListsSound ∧ h.NothingOverdue

end Hub
end Machine
end Sys2Proof
end

