-- ==== Sys2Proof/Certificates/Slice0/Obligations.lean ====
section
/-! DEFINITION. The statements for the provers. In each, `h` is the hub as the command finds it: once what the latest tick
event left outstanding has been done (log entry 3). -/

open Sys2Proof Sys2Proof.Machine

/-! ### The queue of commands, and reset -/

/-- A step takes the command at the front of the queue and performs it on the state with the rest of the queue. The queue of
commands and its order are the model's (log entry 20, DESIGN CHOICE: commands are placed in it from outside; log entry 21,
DEDUCED: events come in its order, from one sender); they are not the engine's intakes. -/
def Obligations.StepTakesTheFrontCommand : Prop :=
  ∀ (c : Instr) (rest : List Instr) (s : State),
    step { s with pending := c :: rest } = exec c { s with pending := rest }

/-- With no command waiting a step lets one character time pass on every transmit wire, and does nothing else (the model's
choice, log entry 4): a transmitter sends the character in progress, the first of those not sent (log entry 15), but holds back a closing delimiter, and waits while its
session is being taken down. -/
def Obligations.IdleStepSendsOneCharacterPerLink : Prop :=
  ∀ s : State, s.pending = [] →
    let h := s.toHub.catchUp
    ∃ t, step s = .next t ∧ t.pending = [] ∧ t.toHub = { h with links := t.links } ∧
      ∀ l, t.toHub.link l =
        match (h.link l).tx with
        | some ⟨loss, c :: c' :: more⟩ =>
          if (h.link l).teardown = none then
            { h.link l with tx := some ⟨loss, c' :: more⟩, wire := (h.link l).wire ++ [c] }
          else h.link l
        | _ => h.link l

/-- No command stops the hub: each answers a next state, and leaves the commands behind it waiting. This is the model's choice
and inference: a command whose event cannot occur changes nothing and still answers a next state (log entry 2, DESIGN CHOICE),
and the manual gives no fault and no undefined command (log entry 26, DEDUCED). -/
def Obligations.EveryCommandAnswersANextState : Prop :=
  ∀ (c : Instr) (s : State), ∃ t, exec c s = .next t ∧ t.pending = s.pending

/-- PIN_RESET sets the hub afresh, with the straps sampled; `State.reset` is what it leaves with all straps low (log entry 5),
with an empty packet memory (log entry 6) and an empty record of the wires (log entry 12). That the command is the whole pulse
on RESET_N is the model's reading (log entry 13). -/
def Obligations.PinResetSetsTheHubAfresh : Prop :=
  ∀ (p : Straps) (s : State),
    (∃ t, exec (.pinReset p) s = .next t ∧ t.pending = s.pending ∧
      t.ready = false ∧ t.tick = 0 ∧ t.deadlines = [] ∧ t.expiryIntake = [] ∧ t.remembered = .timebase ∧
      t.stampCounter = 0 ∧ t.waiters = [] ∧
      t.speed = (match p.speed1, p.speed0 with
        | false, false => .bps115200 | false, true => .bps460800
        | true, false => .bps1000000 | true, true => .bps3000000) ∧
      (∀ i, t.toHub.slot i = { gen := 1, state := .free }) ∧
      (∀ l, t.toHub.intake l = []) ∧
      t.toHub.manages .a = p.mgtA ∧ t.toHub.manages .b = p.mgtB ∧ t.toHub.manages .c = p.mgtC ∧
      t.toHub.manages .d = p.mgtD ∧
      ∀ l, (t.toHub.link l).asm = .held ∧ (t.toHub.link l).buffer = [] ∧ (t.toHub.link l).frameErrors = 0 ∧
        (t.toHub.link l).loss = false ∧ (t.toHub.link l).session = .idle ∧ (t.toHub.link l).sessionNo = 0 ∧
        (t.toHub.link l).label = [] ∧ (t.toHub.link l).keepalive = 0 ∧ (t.toHub.link l).keepaliveCount = none ∧
        (t.toHub.link l).heldHello = none ∧ (t.toHub.link l).sessionsBegun = 0 ∧
        (∀ i : Fin 4, (t.toHub.link l).window[i] = none) ∧ (t.toHub.link l).overruns = 0 ∧
        (t.toHub.link l).txList = [] ∧ (t.toHub.link l).tx = none ∧ (t.toHub.link l).teardown = none) ∧
    exec (.pinReset Straps.low) s = .next { State.reset with pending := s.pending }

/-! ### The timebase -/

/-- TICK_EVENT advances the counter modulo 2^32, raises READY, lets HELD assemblers settle and lowers the keepalive count of
every ACTIVE link. Nothing else changes: that the due entries are moved, and a session whose count comes to 0 ends, by further
rows is the model's choice (log entry 3, DESIGN CHOICE: one tick event is split over three rows). -/
def Obligations.TickEventAdvancesTheCounter : Prop :=
  ∀ s : State,
    let h := s.toHub.catchUp
    ∃ t, exec .tickEvent s = .next t ∧ t = { s with toHub := { h with tick := h.tick + 1, ready := true, links := t.links } } ∧
      t.tick.toNat = (h.tick.toNat + 1) % 4294967296 ∧
      ∀ l, t.toHub.link l =
        { h.link l with
          asm := if (h.link l).asm = .held then .settling else (h.link l).asm,
          keepaliveCount :=
            if (h.link l).session = .active then (h.link l).keepaliveCount.map (fun n => n - 1)
            else (h.link l).keepaliveCount }

/-- The two relations between tick values: due, and earlier (R95). A deadline made at tick T with a timeout t of 1..60,000 is
not due until the counter reaches T + t, and is due then; equal deadlines are neither earlier than the other; and deadlines
that lie within 2^31 of one another stand in the order in which the counter reaches them. -/
def Obligations.TickRelationsAreModular : Prop :=
  (∀ d n : Tick, tickDue d n = true ↔ (n.toNat + (4294967296 - d.toNat)) % 4294967296 < 2147483648) ∧
  (∀ d1 d2 : Tick, tickEarlier d1 d2 = true ↔
    1 ≤ (d2.toNat + (4294967296 - d1.toNat)) % 4294967296 ∧
      (d2.toNat + (4294967296 - d1.toNat)) % 4294967296 ≤ 2147483647) ∧
  (∀ (T : Tick) (t k : Nat), 1 ≤ t → t ≤ 60000 → k < t + 2147483648 →
    (tickDue (T + BitVec.ofNat 32 t) (T + BitVec.ofNat 32 k) = true ↔ t ≤ k)) ∧
  (∀ d : Tick, tickEarlier d d = false) ∧
  ∀ (d : Tick) (a b : Nat), a ≤ 2147483647 → b ≤ 2147483647 →
    (tickEarlier (d + BitVec.ofNat 32 a) (d + BitVec.ofNat 32 b) = true ↔ a < b)

/-- DEADLINE_DUE moves the due entries from the head of the deadline list to the tail of intake T, in list order, up to the
first entry that is not due, or until intake T holds 96 items; nothing else changes.
KEEPALIVE_LAPSE ends the session of an ACTIVE link whose count stands at 0, with cause KEEPALIVE and tag 0: the link is
ENDING at once, its count stops and its teardown is outstanding. That an ACTIVE link can stand at 0 is the model's choice (log
entry 3: one tick event is split over three rows), and so is that at any other link nothing changes (log entry 2). -/
def Obligations.TickEventHalves : Prop :=
  (∀ s : State, ∃ t, exec .deadlineDue s = .next t ∧
      t = { s with deadlines := t.deadlines, expiryIntake := t.expiryIntake } ∧ s.toHub.DueMovedTo t.toHub) ∧
    ∀ (l : Link) (s : State),
      exec (.keepaliveLapse l) s = .next
        (if (s.toHub.link l).session = .active ∧ (s.toHub.link l).keepaliveCount = some 0 then
          (s.withHub (s.toHub.setLink l
              { s.toHub.link l with
                session := .ending, keepaliveCount := none, heldHello := none, teardown := some ⟨.keepalive, 0, false⟩ }))
        else s)

/-- Every command but DEADLINE_DUE and KEEPALIVE_LAPSE first finds the work of the latest tick event done (the model's choice,
log entry 3): the due entries moved, and every session lapsed whose count stands at 0; nothing else.
A tick event that falls within an engine item (R97; the model's operand, log entry 27) is a whole one: TICK_EVENT, and what it
leaves outstanding. -/
def Obligations.OtherCommandsFindTheTickEventDone : Prop :=
  (∀ s : State, ∃ t, exec .tickEvent s = .next t ∧ s.toHub.catchUp.tickEvents 0 = s.toHub.catchUp ∧
    ∀ n, s.toHub.catchUp.tickEvents (n + 1) = t.toHub.catchUp.tickEvents n) ∧
  (∀ (c : Instr) (s : State), c.catchesUp = true → exec c s = exec c (s.withHub (s.toHub.catchUp))) ∧
  ∀ h : Hub,
    h.catchUp = { h with deadlines := h.catchUp.deadlines, expiryIntake := h.catchUp.expiryIntake, links := h.catchUp.links } ∧
    h.DueMovedTo h.catchUp ∧
    ∀ l, h.catchUp.link l =
      if (h.link l).session = .active ∧ (h.link l).keepaliveCount = some 0 then
        { h.link l with
          session := .ending, keepaliveCount := none, heldHello := none, teardown := some ⟨.keepalive, 0, false⟩ }
      else h.link l

/-! ### Line coding, frames and the assembler -/

/-- The CRC (R124): polynomial 0x1021, initial value 0xFFFF, most significant bit first, no final change; its check value; its
place in a frame; and the two tests of a received frame agree. -/
def Obligations.CrcFollowsItsParameters : Prop :=
  crc [] = 0xFFFF ∧
  (∀ (bs : List Byte) (b : Byte), crc (bs ++ [b]) =
    Nat.repeat (fun c : Half => if c.msb then (c <<< 1) ^^^ 0x1021 else c <<< 1) 8 (crc bs ^^^ (b.zeroExtend 16 <<< 8))) ∧
  crc [0x31, 0x32, 0x33, 0x34, 0x35, 0x36, 0x37, 0x38, 0x39] = 0x29B1 ∧
  (∀ (kind tag status flags : Byte) (body : List Byte),
    frameBytes kind tag status flags body =
      frameContent kind tag status flags body ++
        [((crc (frameContent kind tag status flags body)) >>> 8).truncate 8,
         (crc (frameContent kind tag status flags body)).truncate 8]) ∧
  ∀ (bs : List Byte) (hi lo : Byte), crc (bs ++ [hi, lo]) = 0 ↔ crc bs = hi.zeroExtend 16 <<< 8 ||| lo.zeroExtend 16

/-- The closing checks, in their order (R128): fewer than 8 bytes, then the CRC, then the body length. The first that fails
makes the frame a receive error: its bytes are thrown away, the frame-error counter rises and LOSS becomes pending. A frame
that passes all three is handed on to the header checks with its header and body. -/
def Obligations.ClosingChecksInOrder : Prop :=
  (∀ buf : List Byte,
    let n := buf.length
    let crcGood := crc (buf.take (n - 2)) = (buf.getD (n - 2) 0).zeroExtend 16 <<< 8 ||| (buf.getD (n - 1) 0).zeroExtend 16
    let lengthGood := 256 * (buf.getD 4 0).toNat + (buf.getD 5 0).toNat = n - 8
    (n < 8 → closingCheck buf = .error .shortFrame) ∧
    (8 ≤ n → ¬ crcGood → closingCheck buf = .error .crcMismatch) ∧
    (8 ≤ n → crcGood → ¬ lengthGood → closingCheck buf = .error .lengthDisagreement) ∧
    (8 ≤ n → crcGood → lengthGood → closingCheck buf = .ok
      { kind := buf.getD 0 0, tag := buf.getD 1 0, status := buf.getD 2 0, flags := buf.getD 3 0,
        body := (buf.drop 6).take (n - 8) })) ∧
  ∀ (h : Hub) (l : Link),
    (∀ e, closingCheck (h.link l).buffer = .error e → ∃ k', h.closeFrame l = h.setLink l k' ∧ k'.buffer = [] ∧
      k'.frameErrors = min ((h.link l).frameErrors + 1) 65535 ∧ k'.loss = true) ∧
    ∀ f, closingCheck (h.link l).buffer = .ok f → h.closeFrame l = (h.setLink l { h.link l with buffer := [] }).goodFrame l f

/-- The assembler takes a good character by its state and the character's value (R126), for every character that closes no
frame; no other link and nothing of the engine changes. -/
def Obligations.GoodCharacterByStateAndValue : Prop :=
  ∀ (s : State) (l : Link) (v : Byte),
    let h := s.toHub.catchUp
    let k := h.link l
    let error : LinkState :=
      { k with asm := .hunt, buffer := [], frameErrors := min (k.frameErrors + 1) 65535, loss := true }
    let take (b : Byte) : LinkState :=
      if k.buffer.length < 306 then { k with asm := .collecting, buffer := k.buffer ++ [b] } else error
    ¬ (k.asm = .collecting ∧ k.buffer ≠ [] ∧ v = 0x9C) →
    exec (.goodCharacter l v) s = .next (s.withHub (h.setLink l
      (match k.asm with
      | .held | .settling => k
      | .hunt => if v = 0x9C then { k with asm := .collecting, buffer := [] } else k
      | .collecting => if v = 0x9C then k else if v = 0x9D then { k with asm := .escaped } else take v
      | .escaped =>
        if v = 0x9C then { k with asm := .hunt, buffer := [] }
        else if v = 0xBC then take 0x9C else if v = 0xBD then take 0x9D else error)))

/-- A delimiter that closes a frame (R126): one that fails the closing checks is a receive error, with the effect of
RECEIVE_ERROR of that cause; a good one has the effect of its kind's row (log entry 11). That the assembler then stands in
COLLECTING, as the table of R126 has it, where R125 and R129 speak of HUNT, is the model's reading (log entry 23, DEDUCED). -/
def Obligations.ClosingDelimiterActsAsTheFramesRow : Prop :=
  ∀ (s : State) (l : Link),
    let h := s.toHub.catchUp
    let k := h.link l
    k.asm = .collecting → k.buffer ≠ [] →
    (∀ e, closingCheck k.buffer = .error e →
      exec (.goodCharacter l 0x9C) s = .next (s.withHub (h.setLink l
        { k with buffer := [], frameErrors := min (k.frameErrors + 1) 65535, loss := true })) ∧
      exec (.receiveError l e) s = exec (.goodCharacter l 0x9C) s) ∧
    ∀ f, closingCheck k.buffer = .ok f → exec (.goodCharacter l 0x9C) s = exec (f.command l) s

/-- An event of a link's line that cannot occur in the state as it is changes nothing (the model's choice, log entry 2): the row
of a frame that no delimiter would close now, an abort mark outside ESCAPED, the end of settling outside SETTLING, a receive
error whose cause cannot arise. -/
def Obligations.LineEventsThatCannotOccur : Prop :=
  ∀ (s : State) (l : Link),
    let h := s.toHub.catchUp
    let k := h.link l
    (∀ c ∈ [Instr.unknownKind l, .hello l, .bye l, .ping l, .linkStatus l, .objectRequest l],
      (∀ f, h.ClosesOn l f → f.command l ≠ c) → exec c s = .next (s.withHub h)) ∧
    (k.asm ≠ .escaped → exec (.abortMark l) s = .next (s.withHub h) ∧ exec (.receiveError l .escape) s = .next (s.withHub h)) ∧
    (k.asm ≠ .settling → exec (.settlingComplete l) s = .next (s.withHub h)) ∧
    (k.buffer.length < 306 → exec (.receiveError l .overlength) s = .next (s.withHub h)) ∧
    (∀ e ∈ [ReceiveFault.shortFrame, .crcMismatch, .lengthDisagreement],
      k.asm ≠ .collecting ∨ k.buffer = [] ∨ closingCheck k.buffer ≠ .error e →
      exec (.receiveError l e) s = .next (s.withHub h))

/-- RECEIVE_ERROR inside a frame throws its bytes away, raises the saturating frame-error counter, makes LOSS pending and sends
the assembler to HUNT, for a framing error, an escape error in ESCAPED and the 307th byte; a framing error outside a frame is
ignored. Nothing else changes.
ABORT_MARK ends the frame in progress without counting an error; SETTLING_COMPLETE takes a settling assembler to HUNT. -/
def Obligations.ReceiveErrorAbortMarkAndSettling : Prop :=
  (∀ (s : State) (l : Link),
      let h := s.toHub.catchUp
      let k := h.link l
      let counted : State := (s.withHub (h.setLink l
        { k with asm := .hunt, buffer := [], frameErrors := min (k.frameErrors + 1) 65535, loss := true }))
      (k.asm = .collecting ∨ k.asm = .escaped → exec (.receiveError l .framing) s = .next counted) ∧
      (k.asm = .escaped → exec (.receiveError l .escape) s = .next counted) ∧
      (k.asm = .collecting ∨ k.asm = .escaped → 306 ≤ k.buffer.length → exec (.receiveError l .overlength) s = .next counted) ∧
      (k.asm = .held ∨ k.asm = .settling ∨ k.asm = .hunt →
        exec (.receiveError l .framing) s = .next (s.withHub (h)))) ∧
    ∀ (s : State) (l : Link),
      let h := s.toHub.catchUp
      let k := h.link l
      (k.asm = .escaped → exec (.abortMark l) s = .next (s.withHub (h.setLink l { k with asm := .hunt, buffer := [] }))) ∧
      (k.asm = .settling → exec (.settlingComplete l) s = .next (s.withHub (h.setLink l { k with asm := .hunt })))

/-- BREAK throws the buffer away and sends the assembler to SETTLING without touching the counters, LOSS or the transmitter;
it ends an ACTIVE session with cause BREAK, drops the HELLO an ENDING link holds, and is not seen in HELD. -/
def Obligations.BreakSettlesAndEndsTheSession : Prop :=
  ∀ (s : State) (l : Link),
    let h := s.toHub.catchUp
    let k := h.link l
    exec (.lineBreak l) s = .next (s.withHub (h.setLink l
      (if k.asm = .held then k
      else
        match k.session with
        | .idle => { k with asm := .settling, buffer := [] }
        | .active => { k with asm := .settling, buffer := [], session := .ending, keepaliveCount := none, heldHello := none,
                              teardown := some ⟨.lineBreak, 0, false⟩ }
        | .ending => { k with asm := .settling, buffer := [], heldHello := none })))

/-- A frame sent by the hub's transmitter is assembled by a receiver that follows R126: an assembler in HUNT that takes the
frame's characters up to the closing delimiter holds a buffer that the closing checks accept as that very frame, for every
header and every body of 0 to 298 bytes, whether or not the bytes hold delimiters and escapes. -/
def Obligations.TransmittedFrameIsReceivedWhole : Prop :=
  ∀ (k : LinkState) (f : TxFrame) (loss : Bool), k.asm = .hunt → f.body.length ≤ 298 →
    let k' := ((LinkState.lineChars false (f.bytes loss)).dropLast).foldl LinkState.takeCharacter k
    k'.asm = .collecting ∧ k'.buffer = f.bytes loss ∧
      (LinkState.lineChars false (f.bytes loss)).getLast? = some delimiter ∧
      closingCheck k'.buffer = .ok
        { kind := f.kind, tag := f.tag, status := f.status, flags := if loss then 1 else 0, body := f.body } ∧
      k' = { k with asm := .collecting, buffer := f.bytes loss }

/-! ### Sessions and the frames the link answers -/

/-- The header checks in their order, and the frames that the link refuses: a good frame of an IDLE or ACTIVE link takes the
lowest-numbered free slot and is answered UNKNOWN_KIND or MALFORMED by its verdict, whatever its kind; in IDLE a well-formed
frame other than HELLO is answered NO_SESSION. Nothing else changes but the keepalive restart.
The request kinds have the kind bytes of R177, and no other byte is a request kind; all but HELLO, BYE, PING and LINK_STATUS are
engine-bound. A body is well formed when it has the length that the layout of its kind gives, with a name or label length byte
of at most 8; a SEND body has 2 to 258 bytes (R178). -/
def Obligations.LinkRefusesFramesByTheirVerdict : Prop :=
  (∀ b : Byte, ReqKind.ofCode b = match b.toNat with
    | 0x01 => some .hello | 0x02 => some .bye | 0x03 => some .ping | 0x04 => some .linkStatus | 0x05 => some .evict
    | 0x06 => some .hubReset | 0x10 => some .createResource | 0x11 => some .createSignal | 0x12 => some .createQueue
    | 0x13 => some .delete | 0x14 => some .lookup | 0x15 => some .query | 0x16 => some .setAccess | 0x17 => some .reclaim
    | 0x20 => some .acquire | 0x21 => some .release | 0x22 => some .signal | 0x23 => some .wait | 0x24 => some .cancel
    | 0x30 => some .send | 0x31 => some .receive | 0x32 => some .flush | _ => none) ∧
  (∀ r : ReqKind, r.engineBound = false ↔ r ∈ [ReqKind.hello, .bye, .ping, .linkStatus]) ∧
  (∀ (body : List Byte) (r : ReqKind) (n : Nat),
    (r, n) ∈ [(ReqKind.bye, 0), (.ping, 0), (.hubReset, 0), (.linkStatus, 1), (.evict, 1), (.delete, 2), (.query, 2),
      (.reclaim, 2), (.flush, 2), (.setAccess, 3), (.acquire, 6), (.release, 3), (.signal, 3), (.wait, 5), (.receive, 5),
      (.cancel, 1)] →
    (bodyWellFormed r body = true ↔ body.length = n)) ∧
  (∀ (body : List Byte) (r : ReqKind) (at' n : Nat),
    (r, at', n) ∈ [(ReqKind.hello, 3, 4), (.createResource, 0, 5), (.createSignal, 0, 5), (.createQueue, 0, 12),
      (.lookup, 0, 1)] →
    (bodyWellFormed r body = true ↔
      at' < body.length ∧ (body.getD at' 0).toNat ≤ 8 ∧ body.length = n + (body.getD at' 0).toNat)) ∧
  (∀ body : List Byte, bodyWellFormed .send body = true ↔ 2 ≤ body.length ∧ body.length ≤ 258) ∧
  ∀ (s : State) (l : Link) (f : RxFrame) (i : Fin 4),
    let h := s.toHub.catchUp
    let k := h.link l
    let answered (code : ResultCode) : State := (s.withHub (h.setLink l ((k.accepted i).answer i f code [])))
    h.ClosesOn l f → k.session ≠ .ending → k.LowestFree i →
    (ReqKind.ofCode f.kind = none → exec (.unknownKind l) s = .next (answered .unknownKind)) ∧
    (∀ r, ReqKind.ofCode f.kind = some r → f.status ≠ 0 ∨ f.flags ≠ 0 ∨ bodyWellFormed r f.body = false →
      exec (f.command l) s = .next (answered .malformed)) ∧
    (∀ r, ReqKind.ofCode f.kind = some r → r ≠ .hello → f.status = 0 → f.flags = 0 → bodyWellFormed r f.body = true →
      k.session = .idle → exec (f.command l) s = .next (answered .noSession))

/-- A good frame that closes while all four slots of an IDLE or ACTIVE link are held is an overrun, whatever its kind: it is
counted, LOSS becomes pending, the keepalive restarts, and it has no other effect.
A good frame that closes on an ENDING link is discarded, uncounted, unless it is a well-formed HELLO: that is held, in
place of any HELLO held before, with its fields unchecked. -/
def Obligations.FramesThatFindNoSlot : Prop :=
  (∀ (s : State) (l : Link) (f : RxFrame),
      let h := s.toHub.catchUp
      let k := h.link l
      h.ClosesOn l f → k.session ≠ .ending → k.WindowFull →
      exec (f.command l) s = .next (s.withHub (h.setLink l
        { k.frameClosed with overruns := min (k.overruns + 1) 65535, loss := true }))) ∧
    ∀ (s : State) (l : Link) (f : RxFrame),
      let h := s.toHub.catchUp
      let k := h.link l
      h.ClosesOn l f → k.session = .ending →
      exec (f.command l) s = .next (s.withHub (h.setLink l
        (if f.kind = 0x01 ∧ f.status = 0 ∧ f.flags = 0 ∧ bodyWellFormed .hello f.body = true then
          { k with buffer := [],
                   heldHello := some { tag := f.tag, version := (f.body.getD 0 0).toNat,
                                       interval := 256 * (f.body.getD 1 0).toNat + (f.body.getD 2 0).toNat,
                                       label := f.body.drop 4 } }
        else { k with buffer := [] })))

/-- A well-formed HELLO whose fields pass begins a session on an IDLE link: the session number rises, from 255 to 1, the label
and the keepalive are set, the link is ACTIVE, and WELCOME is its answer. That the slot it has taken records the session number
before it is the model's reading (log entry 22, DEDUCED).
A well-formed HELLO whose version is not 1, or whose interval is neither 0 nor 100..60,000, is answered OUT_OF_RANGE in
IDLE and in ACTIVE, and neither begins nor ends a session. -/
def Obligations.HelloBeginsASessionOrIsOutOfRange : Prop :=
  (∀ (s : State) (l : Link) (f : RxFrame) (i : Fin 4),
      let h := s.toHub.catchUp
      let k := h.link l
      let interval := 256 * (f.body.getD 1 0).toNat + (f.body.getD 2 0).toNat
      let no := if k.sessionNo < 255 then k.sessionNo + 1 else 1
      h.ClosesOn l f → k.session = .idle → k.LowestFree i →
      f.kind = 0x01 → f.status = 0 → f.flags = 0 → bodyWellFormed .hello f.body = true →
      f.body.getD 0 0 = 1 → interval = 0 ∨ (100 ≤ interval ∧ interval ≤ 60000) →
      exec (.hello l) s = .next (s.withHub (h.setLink l
        (({ k.accepted i with
            session := .active, sessionNo := no, label := f.body.drop 4, keepalive := interval,
            keepaliveCount := if interval = 0 then none else some interval,
            sessionsBegun := min (k.sessionsBegun + 1) 65535 } : LinkState).answer i f .ok
          ([byteOf no, if k.manage then 1 else 0, 4, 24, 48] ++ bytes32 h.tick.toNat ++ [0x51, 2]))))) ∧
    ∀ (s : State) (l : Link) (f : RxFrame) (i : Fin 4),
      let h := s.toHub.catchUp
      let k := h.link l
      let interval := 256 * (f.body.getD 1 0).toNat + (f.body.getD 2 0).toNat
      h.ClosesOn l f → k.session ≠ .ending → k.LowestFree i →
      f.kind = 0x01 → f.status = 0 → f.flags = 0 → bodyWellFormed .hello f.body = true →
      (f.body.getD 0 0 ≠ 1 ∨ ¬ (interval = 0 ∨ (100 ≤ interval ∧ interval ≤ 60000))) →
      exec (.hello l) s = .next (s.withHub (h.setLink l ((k.accepted i).answer i f .outOfRange [])))

/-- BYE, and a HELLO whose fields pass, end an ACTIVE session: the link is ENDING at once, its count stops, nothing is answered,
and the teardown outstanding carries the BYE's tag, or tag 0 and the HELLO as the held HELLO. -/
def Obligations.ByeAndHelloEndTheSession : Prop :=
  ∀ (s : State) (l : Link) (f : RxFrame) (i : Fin 4),
    let h := s.toHub.catchUp
    let k := h.link l
    let interval := 256 * (f.body.getD 1 0).toNat + (f.body.getD 2 0).toNat
    h.ClosesOn l f → k.session = .active → k.LowestFree i → f.status = 0 → f.flags = 0 →
    (f.kind = 0x02 → f.body = [] →
      exec (.bye l) s = .next (s.withHub (h.setLink l
        { k.accepted i with session := .ending, keepaliveCount := none, heldHello := none,
                            teardown := some ⟨.bye, f.tag, false⟩ }))) ∧
    (f.kind = 0x01 → bodyWellFormed .hello f.body = true → f.body.getD 0 0 = 1 →
      interval = 0 ∨ (100 ≤ interval ∧ interval ≤ 60000) →
      exec (.hello l) s = .next (s.withHub (h.setLink l
        { k.accepted i with
          session := .ending, keepaliveCount := none, teardown := some ⟨.rehello, 0, false⟩,
          heldHello := some { tag := f.tag, version := 1, interval := interval, label := f.body.drop 4 } })))

/-- PING on an ACTIVE link: the response OK, with the PING's tag and the tick, and no other change but the keepalive restart.
LINK_STATUS on an ACTIVE link: a link byte above 3 is OUT_OF_RANGE; another link without MANAGE is DENIED; otherwise the
snapshot of the link named, in its layout, with the slot of this request counted and its response not. -/
def Obligations.PingAndLinkStatusAreAnswered : Prop :=
  (∀ (s : State) (l : Link) (f : RxFrame) (i : Fin 4),
    let h := s.toHub.catchUp
    let k := h.link l
    h.ClosesOn l f → k.session = .active → k.LowestFree i →
    f.kind = 0x03 → f.status = 0 → f.flags = 0 → f.body = [] →
    exec (.ping l) s = .next (s.withHub (h.setLink l ((k.accepted i).answer i f .ok (bytes32 h.tick.toNat))))) ∧
  ∀ (s : State) (l : Link) (f : RxFrame) (i : Fin 4) (b : Byte),
    let h := s.toHub.catchUp
    let k := h.link l
    let answered (code : ResultCode) (body : List Byte) : State :=
      (s.withHub (h.setLink l ((k.accepted i).answer i f code body)))
    h.ClosesOn l f → k.session = .active → k.LowestFree i →
    f.kind = 0x04 → f.status = 0 → f.flags = 0 → f.body = [b] →
    (4 ≤ b.toNat → exec (.linkStatus l) s = .next (answered .outOfRange [])) ∧
    ∀ t : Link, linkNumber t = b.toNat →
      (t ≠ l → k.manage = false → exec (.linkStatus l) s = .next (answered .denied [])) ∧
      (t = l ∨ k.manage = true →
        let r := (h.setLink l (k.accepted i)).link t
        exec (.linkStatus l) s = .next (answered .ok
          ([match r.session with | .idle => 0 | .active => 1 | .ending => 2, byteOf r.sessionNo, if r.manage then 1 else 0,
            byteOf r.label.length] ++ r.label ++
           [byteOf (r.window.toList.countP Option.isSome), byteOf (h.waiters.countP fun w => decide (w.link = t)),
            byteOf r.txList.length] ++
           bytes16 r.frameErrors ++ bytes16 r.overruns ++ bytes16 r.sessionsBegun ++ bytes32 h.tick.toNat)))

/-- A well-formed frame of an engine-bound kind is appended to the intake of an ACTIVE link as an object request, with its tag,
its fields, the link's session number and the slot it has taken; nothing is answered yet. That it stands there with its fields,
not its bytes, is the model's choice (log entry 16).
The fields of every body stand where the layouts of R179 have them: a handle as generation and slot, two-byte fields most
significant byte first, a name or label behind its length byte. -/
def Obligations.ObjectRequestIsAppended : Prop :=
  (∀ tag gen slot x y t1 t0 : Byte,
    let hd : Handle := { gen := gen.toNat, slot := slot.toNat }
    let timeout := 256 * t1.toNat + t0.toNat
    requestOf .bye tag [] = .bye ∧ requestOf .ping tag [] = .ping ∧ requestOf .linkStatus tag [x] = .linkStatus x.toNat ∧
    requestOf .evict tag [x] = .object (.evict x.toNat) ∧ requestOf .hubReset tag [] = .object .hubReset ∧
    requestOf .delete tag [gen, slot] = .object (.delete hd) ∧ requestOf .query tag [gen, slot] = .object (.query hd) ∧
    requestOf .reclaim tag [gen, slot] = .object (.reclaim hd) ∧ requestOf .flush tag [gen, slot] = .object (.flush hd) ∧
    requestOf .setAccess tag [gen, slot, x] = .object (.setAccess hd x) ∧
    requestOf .acquire tag [gen, slot, x, y, t1, t0] = .object (.acquire hd x.toNat y.toNat timeout) ∧
    requestOf .release tag [gen, slot, x] = .object (.release hd x.toNat) ∧
    requestOf .signal tag [gen, slot, x] = .object (.signal hd x.toNat) ∧
    requestOf .wait tag [gen, slot, y, t1, t0] = .object (.wait hd y.toNat timeout) ∧
    requestOf .receive tag [gen, slot, y, t1, t0] = .object (.receive hd y.toNat timeout) ∧
    requestOf .cancel tag [x] = .object (.cancel x) ∧
    ∀ payload, requestOf .send tag (gen :: slot :: payload) = .object (.send hd payload)) ∧
  (∀ (tag : Byte) (name : List Byte) (access discipline x y : Byte), name.length ≤ 8 →
    let n := byteOf name.length
    let common : CreateCommon := { name := name, access := access, discipline := discipline.toNat }
    requestOf .lookup tag (n :: name) = .object (.lookup name) ∧
    requestOf .createResource tag (n :: name ++ [access, discipline, x, y]) =
      .object (.createResource common x.toNat y.toNat) ∧
    requestOf .createSignal tag (n :: name ++ [access, discipline, x, y]) =
      .object (.createSignal common x.toNat y.toNat) ∧
    (∀ base blocks maxEntries m1 m0 threshold present gen slot : Byte,
      requestOf .createQueue tag
          (n :: name ++ [access, discipline, base, blocks, maxEntries, m1, m0, threshold, present, gen, slot]) =
        .object (.createQueue common base.toNat blocks.toNat maxEntries.toNat (256 * m1.toNat + m0.toNat) threshold.toNat
          present.toNat { gen := gen.toNat, slot := slot.toNat })) ∧
    ∀ version i1 i0 : Byte, requestOf .hello tag (version :: i1 :: i0 :: n :: name) =
      .hello { tag := tag, version := version.toNat, interval := 256 * i1.toNat + i0.toNat, label := name }) ∧
  ∀ (s : State) (l : Link) (f : RxFrame) (i : Fin 4) (r : ReqKind) (body : ObjReq),
    let h := s.toHub.catchUp
    let k := h.link l
    h.ClosesOn l f → k.session = .active → k.LowestFree i →
    ReqKind.ofCode f.kind = some r → r.engineBound = true → f.status = 0 → f.flags = 0 → bodyWellFormed r f.body = true →
    requestOf r f.tag f.body = .object body →
    exec (.objectRequest l) s = .next (s.withHub (
      (h.setLink l (k.accepted i)).setIntake l
        (h.intake l ++ [.request { tag := f.tag, session := k.sessionNo, slot := i, body := body }])))

/-- Steps 2 to 7 of a session end: the frame in transmission is completed or cut, the rest of the transmit list is discarded,
every slot is released, SESSION_ENDED is appended unless the cause is BREAK and is then the only item, untaken requests of the
session are withdrawn, and the purge item stands behind the reports. SESSION_ENDED shares the closing delimiter of a frame that
completed at step 2, here or by a FRAME_COMPLETE before (log entry 14). Without an outstanding teardown nothing happens (the
model's choice, log entry 2).
The frame in transmission, if there is one, completes if its closing delimiter is in progress; any other is cut with the abort
mark, of which an escape just sent is the first half, and a LOSS it carried is pending again (R136). The character in progress
is the first of those not sent (the model's reading, log entry 15). -/
def Obligations.SessionEndTeardownInOrder : Prop :=
  (∀ (s : State) (l : Link),
    let h := s.toHub.catchUp
    let k := h.link l
    (k.teardown = none → exec (.sessionEndTeardown l) s = .next (s.withHub (h))) ∧
    ∀ e, k.teardown = some e →
      let stopped := k.stopFrame
      let cleared : LinkState :=
        { stopped.1 with window := Vector.replicate 4 none, txList := [], tx := none, teardown := none }
      let ended : TxItem :=
        { cls := .sessionNotice, session := none, msg := none,
          frame := { kind := 0xC8, tag := e.tag, status := 0, body := [e.cause.byte, byteOf k.sessionNo] } }
      let reports := match stopped.2 with | some item => item.reports | none => []
      exec (.sessionEndTeardown l) s = .next (s.withHub (
        (h.setLink l (if e.cause = .lineBreak then cleared else cleared.enqueue (stopped.2.isSome || e.delimiterSent) ended)).setIntake l
          ((h.intake l ++ reports).filter (fun x => match x with
            | .request r => decide (r.session ≠ k.sessionNo)
            | .freeWaiter _ | .spendMessage .. | .purge => true) ++ [.purge])))) ∧
  (∀ k : LinkState, k.tx = none → k.stopFrame = (k, none)) ∧
  ∀ (k : LinkState) (loss : Bool) (c : Byte) (more : List Byte) (item : TxItem) (items : List TxItem),
    k.tx = some ⟨loss, c :: more⟩ → k.txList = item :: items →
    (more = [] → k.stopFrame = ({ k with tx := none, txList := items, wire := k.wire ++ [c] }, some item)) ∧
    (more ≠ [] → k.stopFrame =
      ({ k with tx := none, txList := items, loss := k.loss || loss,
                wire := k.wire ++ (if c = 0x9D then [0x9D, 0x9C] else [c, 0x9D, 0x9C]) }, none))

/-- FRAME_COMPLETE: the head item leaves the list; a response releases its slot, a waiter notice places its "free waiter"
report, and an item with a payload its "spend message" report, in that order; SESSION_ENDED has no effect; and the next frame
begins, sharing the closing delimiter. While a session end is outstanding only a frame whose closing delimiter is in progress
completes, and no next frame of the list begins: it is SESSION_ENDED that shares the delimiter, at the teardown (R154; log
entry 14). With no frame in transmission nothing changes (log entry 2). -/
def Obligations.FrameCompletionEffects : Prop :=
  (∀ (s : State) (l : Link) (x : Transmission) (item : TxItem) (items : List TxItem),
    let h := s.toHub.catchUp
    let k := h.link l
    k.tx = some x → k.txList = item :: items →
    let sent : LinkState := { k with tx := none, txList := items, wire := k.wire ++ x.rest }
    let onward (k : LinkState) : LinkState := match k.teardown with
      | none => k.beginFrame true
      | some e => { k with teardown := some { e with delimiterSent := true } }
    let spend (c : Carrier) : List Item :=
      match item.session, item.msg with | some n, some m => [.spendMessage m n c] | _, _ => []
    (k.teardown = none ∨ x.rest.length ≤ 1 →
      exec (.frameComplete l) s = .next (s.withHub (
        match item.cls with
        | .response i =>
          (h.setLink l (onward { sent with window := k.window.set i none })).setIntake l (h.intake l ++ spend .response)
        | .waiterNotice st => (h.setLink l (onward sent)).setIntake l (h.intake l ++ [.freeWaiter st] ++ spend .notice)
        | .sessionNotice => h.setLink l (onward sent)))) ∧
    (k.teardown ≠ none → 1 < x.rest.length → exec (.frameComplete l) s = .next (s.withHub h))) ∧
  ∀ (s : State) (l : Link), (s.toHub.catchUp.link l).tx = none →
    exec (.frameComplete l) s = .next (s.withHub s.toHub.catchUp)

/-- Transmission of the head item begins at once when it is appended to an empty list, and when the frame before it completes:
the flags byte carries LOSS, which is cleared, and the line carries an opening delimiter (unless shared), the coded bytes and a
closing delimiter. Appending to a list that is not empty changes only the list. -/
def Obligations.TransmissionBeginsWithLoss : Prop :=
  (∀ (k : LinkState) (shared : Bool) (item : TxItem) (items : List TxItem), k.txList = item :: items →
    k.beginFrame shared =
      { k with loss := false,
               tx := some ⟨k.loss, (if shared then [] else [0x9C]) ++
                 (frameBytes item.frame.kind item.frame.tag item.frame.status (if k.loss then 1 else 0)
                    item.frame.body).flatMap
                   (fun b => if b = 0x9C then [0x9D, 0xBC] else if b = 0x9D then [0x9D, 0xBD] else [b]) ++ [0x9C]⟩ }) ∧
  (∀ (k : LinkState) (shared : Bool), k.txList = [] → k.beginFrame shared = k) ∧
  (∀ (k : LinkState) (shared : Bool) (item : TxItem), k.txList = [] →
    k.enqueue shared item = ({ k with txList := [item] } : LinkState).beginFrame shared) ∧
  ∀ (k : LinkState) (shared : Bool) (item : TxItem), k.txList ≠ [] →
    k.enqueue shared item = { k with txList := k.txList ++ [item] }

/-- Engine output at a link (R167): a frame of the link's present ACTIVE session is appended; any other is discarded, and a
discarded response releases its slot if a request of that session still holds it. A discard places no completion report and
changes no record and no message. Output made by the link itself is appended without this test.
A response carries the request's kind plus 0x80, its tag and a result code, and names its slot; a notice carries its record's tag
and status 0, and names its stamp (R110, R118). -/
def Obligations.EngineOutputIsAppendedOrDiscarded : Prop :=
  (∀ (h : Hub) (l : Link) (session : Nat) (item : TxItem),
    let k := h.link l
    (k.session = .active ∧ k.sessionNo = session → h.handOver l session item = h.setLink l (k.enqueue false item)) ∧
    (¬ (k.session = .active ∧ k.sessionNo = session) →
      h.handOver l session item = h.setLink l
        (match item.cls with
        | .response i => if k.window[i] = some session then { k with window := k.window.set i none } else k
        | .waiterNotice _ | .sessionNotice => k))) ∧
  (∀ (h : Hub) (l : Link) (i : Fin 4) (kind tag : Byte) (code : ResultCode) (body : List Byte),
    h.linkAnswer l i kind tag code body = h.setLink l ((h.link l).enqueue false
      { cls := .response i, frame := { kind := kind + 0x80, tag := tag, status := code.byte, body := body },
        session := none, msg := none })) ∧
  (∀ (h : Hub) (l : Link) (rq : Request) (code : ResultCode) (body : List Byte) (msg : Option MessageRef),
    let kind : Byte := match rq.body with
      | .evict _ => 0x05 | .hubReset => 0x06 | .createResource .. => 0x10 | .createSignal .. => 0x11 | .createQueue .. => 0x12
      | .delete _ => 0x13 | .lookup _ => 0x14 | .query _ => 0x15 | .setAccess .. => 0x16 | .reclaim _ => 0x17
      | .acquire .. => 0x20 | .release .. => 0x21 | .signal .. => 0x22 | .wait .. => 0x23 | .cancel _ => 0x24
      | .send .. => 0x30 | .receive .. => 0x31 | .flush _ => 0x32
    h.reply l rq code body msg = h.handOver l rq.session
      { cls := .response rq.slot, frame := { kind := kind + 0x80, tag := rq.tag, status := code.byte, body := body },
        session := some rq.session, msg := msg }) ∧
  ∀ (h : Hub) (w : Waiter) (kind : Byte) (body : List Byte) (msg : Option MessageRef),
    h.notice w kind body msg = h.handOver w.link w.session
      { cls := .waiterNotice w.stamp, frame := { kind := kind, tag := w.tag, status := 0, body := body },
        session := some w.session, msg := msg }

/-! ### The engine: the arbiter, refusals, objects -/

/-- The arbiter gives the turn to the first source with an item after the remembered one, in the cyclic order A, B, C, D, T; the
item it takes is the head of that source's intake, and that source is remembered. An engine command whose item is not the
next one does nothing (the model's choice, log entry 2). -/
def Obligations.ArbiterGoesRound : Prop :=
  ∀ (h : Hub),
    let order : List Source := [.link .a, .link .b, .link .c, .link .d, .timebase]
    let empty (x : Source) : Prop := match x with | .link l => h.intake l = [] | .timebase => h.expiryIntake = []
    let item (x : Source) : Option Turn := match x with
      | .link l => (h.intake l).head?.map (.item l)
      | .timebase => h.expiryIntake.head?.map .expiry
    (h.turn = none ↔ ∀ x, empty x) ∧
    (∀ n m : Fin 5, order[n]? = some h.remembered →
      (∀ j < m.val, ∀ x, order[(n.val + 1 + j) % 5]? = some x → empty x) →
      ∀ x, order[(n.val + 1 + m.val) % 5]? = some x → ¬ empty x → h.turn = item x) ∧
    (∀ l, h.takeFrom l = { h with intakes := h.intakes.set l (h.intake l).tail, remembered := .link l }) ∧
    h.takeExpiry = { h with expiryIntake := h.expiryIntake.tail, remembered := .timebase } ∧
    ∀ (s : State) (c : Instr), s.toHub.catchUp = h → c.takesItem = true → (∀ n, h.turn.map (Turn.command n) ≠ some c) →
      exec c s = .next (s.withHub h)

/-- A request that fails a check is answered with the code of the first check that fails, with an empty body, and nothing else
changes but that the request has left its intake: no object, waiter, wait list, message, deadline or stamp. No tick event falls
within the item of a refused ACQUIRE, WAIT or RECEIVE, whatever the operand (the model's choice, log entry 27).
The result codes have the values of R117. -/
def Obligations.RefusedRequestsChangeNothingElse : Prop :=
  (∀ code : ResultCode, code.byte = match code with
    | .ok => 0x00 | .waiting => 0x01 | .unavailable => 0x02 | .empty => 0x03 | .full => 0x04
    | .badHandle => 0x10 | .stale => 0x11 | .wrongKind => 0x12 | .denied => 0x13 | .draining => 0x14 | .inUse => 0x15
    | .badAmount => 0x20 | .notHeld => 0x21 | .overflow => 0x22 | .tooLong => 0x23 | .outOfRange => 0x24 | .overlap => 0x25
    | .nameTaken => 0x26 | .notFound => 0x27 | .noSlot => 0x30 | .noWaiter => 0x31 | .tagInUse => 0x32 | .tooLate => 0x33
    | .noSession => 0x40 | .malformed => 0x41 | .unknownKind => 0x42) ∧
  ∀ (s : State) (l : Link) (rq : Request) (code : ResultCode) (ticks : Nat),
    let h := s.toHub.catchUp
    h.Takes l rq → h.refusal l rq = some code →
    exec (rq.body.command ticks) s = .next (s.withHub ((h.takeFrom l).reply l rq code [] none))

/-- A CREATE request that no check refuses takes the lowest-numbered FREE slot, which becomes LIVE and keeps its generation,
with the fields given and the initial state of its kind; the response OK carries the handle. -/
def Obligations.CreateTakesTheLowestFreeSlot : Prop :=
  ∀ (s : State) (l : Link) (rq : Request),
    let h := s.toHub.catchUp
    h.Takes l rq → h.refusal l rq = none →
    let created (command : Instr) (c : CreateCommon) (p : Part) : Prop :=
      ∃ i : Fin 48, (h.slot i).state = .free ∧ (∀ j < i, (h.slot j).state ≠ .free) ∧
        exec command s = .next (s.withHub
          (((h.takeFrom l).setSlot i
            { gen := (h.slot i).gen,
              state := .live { name := if c.name = [] then none else some c.name, creator := l,
                               access := linkSetOf c.access,
                               discipline := if c.discipline = 0 then .priority else .arrival, part := p } }).reply l rq .ok
            [byteOf (h.slot i).gen, byteOf i] none))
    (∀ c limit robust, rq.body = .createResource c limit robust →
      created .createResource c
        (.resource { limit := limit, available := limit, holdings := PerLink.all 0, stranded := 0,
                     robust := decide (robust = 1), waitList := [] })) ∧
    (∀ c limit initial, rq.body = .createSignal c limit initial →
      created .createSignal c (.signal { limit := limit, count := initial, waitList := [] })) ∧
    ∀ c base blocks maxEntries maxLength threshold present companion,
      rq.body = .createQueue c base blocks maxEntries maxLength threshold present companion →
      created .createQueue c
        (.queue { base := base, blocks := blocks, maxEntries := maxEntries, maxLength := maxLength,
                  threshold := threshold, companion := if present = 0 then none else some companion,
                  nextSeq := 0, messages := [], waitList := [] })

/-- LOOKUP and QUERY that no check refuses answer with the handle and kind, and with the snapshot in its layout; they change
nothing else.
SET_ACCESS that no check refuses replaces the object's access set, whole, and nothing else of any object. -/
def Obligations.LookupQueryAndSetAccess : Prop :=
  (∀ (s : State) (l : Link) (rq : Request),
      let h := s.toHub.catchUp
      h.Takes l rq → h.refusal l rq = none →
      let kindByte (o : Obj) : Byte := match o.part with | .resource _ => 1 | .signal _ => 2 | .queue _ => 3
      let stateByte (i : Fin 48) : Byte := match (h.slot i).state with | .free => 0 | .live _ => 1 | .draining _ => 2
      (∀ name, rq.body = .lookup name → ∃ i o, h.objAt i = some o ∧ o.name = some name ∧
        exec .lookup s = .next (s.withHub ((h.takeFrom l).reply l rq .ok
          [byteOf (h.slot i).gen, byteOf i, kindByte o, stateByte i] none))) ∧
      ∀ hd, rq.body = .query hd → ∃ i o, h.slotOf hd = some i ∧ h.objAt i = some o ∧
        exec .query s = .next (s.withHub ((h.takeFrom l).reply l rq .ok
          ([byteOf hd.gen, byteOf hd.slot, stateByte i, kindByte o, byteOf (o.name.getD []).length] ++ o.name.getD [] ++
           [byteOf (linkNumber o.creator), o.access.zeroExtend 8, if o.discipline = .priority then 0 else 1] ++
           match o.part with
           | .resource r =>
             [byteOf r.limit, byteOf r.available, byteOf r.stranded, if r.robust then 1 else 0, byteOf r.holdings.a,
              byteOf r.holdings.b, byteOf r.holdings.c, byteOf r.holdings.d, byteOf r.waitList.length]
           | .signal g => [byteOf g.limit, byteOf g.count, byteOf g.waitList.length]
           | .queue q =>
             [byteOf q.base, byteOf q.blocks, byteOf q.maxEntries] ++ bytes16 q.maxLength ++ [byteOf q.threshold] ++
             (match q.companion with | some c => [1, byteOf c.gen, byteOf c.slot] | none => [0, 0, 0]) ++
             [byteOf q.messages.length, byteOf (q.messages.countP Message.isReady),
              byteOf (q.messages.countP Message.isClaimed)] ++
             bytes16 q.used ++ bytes16 (64 * q.blocks - q.used) ++ bytes16 q.nextSeq.toNat ++ [byteOf q.waitList.length])
          none))) ∧
    ∀ (s : State) (l : Link) (rq : Request) (hd : Handle) (access : Byte),
      let h := s.toHub.catchUp
      h.Takes l rq → rq.body = .setAccess hd access → h.refusal l rq = none →
      ∃ i o, h.slotOf hd = some i ∧ (h.slot i).state = .live o ∧
        exec .setAccess s = .next (s.withHub (((h.takeFrom l).setSlot i
          { h.slot i with state := .live { o with access := access.truncate 4 } }).reply l rq .ok [] none))

/-- DELETE that no check refuses. A RESOURCE's slot is freed. A SIGNAL's waiters become ABANDONED in list order, after the
response, and its slot is freed. A QUEUE's waiters become ABANDONED, its READY messages SPENT and reclaimed; the slot is freed
when no message is left, and DRAINING otherwise. A freed slot's generation advances, from 255 to 1; that the bytes of a
released area stay as last written is the model's choice (log entry 28).
A waiter whose object is deleted becomes ABANDONED: its deadline entry is removed if it has one, and an ABANDONED notice
with its tag and the handle it named goes to its link; no other record changes (R57). -/
def Obligations.DeleteByKindAbandonsWaiters : Prop :=
  (∀ (s : State) (l : Link) (rq : Request) (hd : Handle),
      let h := s.toHub.catchUp
      h.Takes l rq → rq.body = .delete hd → h.refusal l rq = none →
      ∃ i o, h.slotOf hd = some i ∧ (h.slot i).state = .live o ∧
        let freed : Slot := { gen := if (h.slot i).gen < 255 then (h.slot i).gen + 1 else 1, state := .free }
        let answered := (h.takeFrom l).reply l rq .ok [] none
        exec .delete s = .next (s.withHub (match o.part with
          | .resource _ => ((h.takeFrom l).setSlot i freed).reply l rq .ok [] none
          | .signal g => (g.waitList.foldl Hub.abandon answered).setSlot i freed
          | .queue q =>
            let kept := (q.messages.map fun m => if m.state = .ready then { m with state := .spent } else m).dropWhile
              (fun m => decide (m.state = .spent))
            (q.waitList.foldl Hub.abandon answered).setSlot i
              (if kept = [] then freed
               else { h.slot i with state := .draining { o with part := .queue { q with messages := kept, waitList := [] } } })))) ∧
    ∀ (h : Hub) (w : Waiter), h.StampsDistinct → w ∈ h.waiters →
      ∃ h1 : Hub, h.abandon w.stamp =
          h1.handOver w.link w.session
            { cls := .waiterNotice w.stamp, session := some w.session, msg := none,
              frame := { kind := 0xC3, tag := w.tag, status := 0, body := [byteOf w.object.gen, byteOf w.object.slot] } } ∧
        h1 = { h with waiters := h1.waiters, deadlines := h1.deadlines } ∧
        h1.waiters = h.waiters.map (fun x => if x.stamp = w.stamp then { x with state := .abandoned, message := none } else x) ∧
        h1.deadlines =
          if w.deadline = none then h.deadlines else h.deadlines.filter (fun e => decide (e.stamp ≠ w.stamp))

/-! ### Semaphores -/

/-- An ACQUIRE that can be granted at once moves the amount from available to the link's holding, a WAIT takes one event from
the count, and the response is OK; no waiter is made, no tag compared, and no pass runs. No tick event falls within the item,
whatever the operand (the model's choice, log entry 27). -/
def Obligations.GrantedAtOnce : Prop :=
  ∀ (s : State) (l : Link) (rq : Request) (hd : Handle) (ticks : Nat),
    let h := s.toHub.catchUp
    h.Takes l rq → h.refusal l rq = none →
    (∀ amount priority timeout, rq.body = .acquire hd amount priority timeout → h.acquireBlocked hd amount = false →
      ∃ i o r, h.slotOf hd = some i ∧ (h.slot i).state = .live o ∧ o.part = .resource r ∧ r.waitList = [] ∧
        amount ≤ r.available ∧
        exec (.acquire ticks) s = .next (s.withHub (((h.takeFrom l).setLive i o (.resource
          { r with available := r.available - amount, holdings := r.holdings.set l (r.holdings.get l + amount) })).reply
            l rq .ok [] none))) ∧
    ∀ priority timeout, rq.body = .wait hd priority timeout → h.waitBlocked hd = false →
      ∃ i o g, h.slotOf hd = some i ∧ (h.slot i).state = .live o ∧ o.part = .signal g ∧ g.waitList = [] ∧ 1 ≤ g.count ∧
        exec (.wait ticks) s = .next (s.withHub (((h.takeFrom l).setLive i o (.signal
          { g with count := g.count - 1 })).reply l rq .ok [] none))

/-- An ACQUIRE, WAIT or RECEIVE that cannot be met at once and that no check refuses makes a waiter on its object, of its
operation, with the amount asked for (1 for WAIT and RECEIVE), with the tick events before its insert claim that the operand
gives (R97; log entry 27); an ACQUIRE waiter at the head of a list that was not empty is
followed by the grant pass. -/
def Obligations.BlockedRequestsWait : Prop :=
  ∀ (s : State) (l : Link) (rq : Request) (hd : Handle) (priority timeout ticks : Nat),
    let h := s.toHub.catchUp
    h.Takes l rq → h.refusal l rq = none →
    (∀ amount, rq.body = .acquire hd amount priority timeout → h.acquireBlocked hd amount = true →
      ∃ i o, h.slotOf hd = some i ∧ (h.slot i).state = .live o ∧
        let waiting := (h.takeFrom l).makeWaiter ticks l rq hd i o.discipline .acquire amount priority timeout
        exec (.acquire ticks) s = .next (s.withHub
          (if h.waitListAt i ≠ [] ∧ (waiting.waitListAt i).head? = some (h.stampCounter + 1) then waiting.grantPass i
           else waiting))) ∧
    (rq.body = .wait hd priority timeout → h.waitBlocked hd = true →
      ∃ i o, h.slotOf hd = some i ∧ (h.slot i).state = .live o ∧
        exec (.wait ticks) s = .next (s.withHub ((h.takeFrom l).makeWaiter ticks l rq hd i o.discipline .wait 1 priority timeout))) ∧
    (rq.body = .receive hd priority timeout → h.receiveBlocked hd = true →
      ∃ i o, h.slotOf hd = some i ∧ (h.slot i).state = .live o ∧
        exec (.receive ticks) s = .next (s.withHub ((h.takeFrom l).makeWaiter ticks l rq hd i o.discipline .receive 1 priority timeout)))

/-- Making a waiter on a LIVE object: the arrival stamp counter rises by 1 and stamps the new record, which is WAITING with the
request's fields and the deadline T + t modulo 2^32 unless the timeout is 65,535; it stands in the wait list at the tail
(ARRIVAL) or behind every record of equal or more urgent priority and before the first less urgent one (PRIORITY); an entry
is claimed for its deadline; and the response is WAITING. Between the reading of T and the claim the tick events fall that the
operand gives (log entry 27), none without a claim: an entry due by then goes to the tail of intake T, if that has room (R97).
Nothing else changes. -/
def Obligations.WaiterIsMade : Prop :=
  ∀ (h : Hub) (l : Link) (rq : Request) (hd : Handle) (i : Fin 48) (o : Obj) (op : WaitOp)
    (amount priority timeout ticks : Nat), h.objAt i = some o →
    let st := h.stampCounter + 1
    let deadline : Option Tick := if timeout = 65535 then none else some (h.tick + BitVec.ofNat 32 timeout)
    let g : Hub := if timeout = 65535 then h else h.tickEvents ticks
    ∃ (h1 : Hub) (before behind : List Stamp),
      h.makeWaiter ticks l rq hd i o.discipline op amount priority timeout = h1.reply l rq .waiting [] none ∧
      h1 = { g with stampCounter := st, waiters := h1.waiters, slots := h1.slots, deadlines := h1.deadlines,
                    expiryIntake := h1.expiryIntake } ∧
      h1.waiters = h.waiters ++
        [{ link := l, session := rq.session, tag := rq.tag, object := hd, op := op, amount := amount, priority := priority,
           deadline := deadline, stamp := st, state := .waiting, message := none }] ∧
      (∀ j, j ≠ i → h1.slot j = h.slot j) ∧
      h1.slot i = { h.slot i with
        state := (h.slot i).state.modObj fun o => { o with part := o.part.setWaitList (before ++ st :: behind) } } ∧
      h.waitListAt i = before ++ behind ∧
      (o.discipline = .arrival → behind = []) ∧
      (o.discipline = .priority → (∀ x ∈ before, h.priorityOf x ≤ priority) ∧
        ∀ x, behind.head? = some x → priority < h.priorityOf x) ∧
      match deadline with
      | none => h1.deadlines = g.deadlines ∧ h1.expiryIntake = g.expiryIntake
      | some d =>
        if tickDue d g.tick = true ∧ g.expiryIntake.length < 96 then
          h1.deadlines = g.deadlines ∧ h1.expiryIntake = g.expiryIntake ++ [st]
        else
          h1.expiryIntake = g.expiryIntake ∧ ∃ earlier later, g.deadlines = earlier ++ later ∧
            h1.deadlines = earlier ++ { stamp := st, deadline := d } :: later ∧
            (∀ e ∈ earlier, tickEarlier d e.deadline = false) ∧
            ∀ e, later.head? = some e → tickEarlier d e.deadline = true

/-- RELEASE, SIGNAL and RECLAIM that no check refuses: the tokens go back to available, the events to the count, the stranded
tokens to available; then the response OK (for RECLAIM with the number reclaimed); then the grant pass. -/
def Obligations.TokensGivenBackThenThePass : Prop :=
  ∀ (s : State) (l : Link) (rq : Request) (hd : Handle),
    let h := s.toHub.catchUp
    h.Takes l rq → h.refusal l rq = none →
    (∀ amount, rq.body = .release hd amount →
      ∃ i o r, h.slotOf hd = some i ∧ (h.slot i).state = .live o ∧ o.part = .resource r ∧ amount ≤ r.holdings.get l ∧
        exec .release s = .next (s.withHub ((((h.takeFrom l).setLive i o (.resource
          { r with available := r.available + amount, holdings := r.holdings.set l (r.holdings.get l - amount) })).reply
            l rq .ok [] none).grantPass i))) ∧
    (∀ amount, rq.body = .signal hd amount →
      ∃ i o g, h.slotOf hd = some i ∧ (h.slot i).state = .live o ∧ o.part = .signal g ∧ g.count + amount ≤ g.limit ∧
        exec .signal s = .next (s.withHub ((((h.takeFrom l).setLive i o (.signal
          { g with count := g.count + amount })).reply l rq .ok [] none).grantPass i))) ∧
    (rq.body = .reclaim hd →
      ∃ i o r, h.slotOf hd = some i ∧ (h.slot i).state = .live o ∧ o.part = .resource r ∧
        exec .reclaim s = .next (s.withHub ((((h.takeFrom l).setLive i o (.resource
          { r with available := r.available + r.stranded, stranded := 0 })).reply l rq .ok [byteOf r.stranded]
            none).grantPass i)))

/-- The grant pass on a RESOURCE or SIGNAL (R27): while the head waiter can be satisfied it leaves the list, takes its tokens or
its event, becomes GRANTED, loses its deadline entry and gets its GRANT notice; the pass stops at the first head that cannot
be satisfied, and looks no further.
Companion signalling (R36): below its limit the count of the SIGNAL that the handle names rises by 1 and the grant pass
runs; at its limit nothing changes. -/
def Obligations.GrantPassAndCompanionSignalling : Prop :=
  (∀ (h : Hub) (i : Fin 48) (o : Obj), h.objAt i = some o →
      let granted (p : Part) (w : Waiter) : Hub :=
        ({ (h.setPart i p) with
            waiters := h.waiters.map (fun x => if x.stamp = w.stamp then { x with state := .granted, message := none } else x),
            deadlines :=
              if w.deadline = none then h.deadlines else h.deadlines.filter (fun e => decide (e.stamp ≠ w.stamp)) } : Hub).notice
          w 0xC0 [byteOf w.object.gen, byteOf w.object.slot, byteOf w.amount] none
      (o.part.waitList = [] → h.grantPass i = h) ∧
      (∀ q, o.part = .queue q → h.grantPass i = h) ∧
      ∀ st rest w, o.part.waitList = st :: rest → h.findWaiter st = some w →
        (∀ r, o.part = .resource r →
          h.grantPass i =
            if w.amount ≤ r.available then
              (granted (.resource { r with available := r.available - w.amount, waitList := rest,
                                           holdings := r.holdings.set w.link (r.holdings.get w.link + w.amount) }) w).grantPass i
            else h) ∧
        ∀ g, o.part = .signal g →
          h.grantPass i =
            if 1 ≤ g.count then (granted (.signal { g with count := g.count - 1, waitList := rest }) w).grantPass i else h) ∧
    ∀ (h : Hub) (c : Handle) (i : Fin 48) (o : Obj) (g : Signal),
      h.slotOf c = some i → h.objAt i = some o → o.part = .signal g →
      (g.count < g.limit → h.signalCompanion c = (h.setPart i (.signal { g with count := g.count + 1 })).grantPass i) ∧
      (g.limit ≤ g.count → h.signalCompanion c = h)

/-! ### Waiters -/

/-- CANCEL of the link's WAITING record with the tag named: it leaves its wait list, its deadline entry is removed if it has
one, the record is freed, the response OK carries the handle it named, and the grant pass follows if it was at the head of its
list. -/
def Obligations.CancelFreesAWaitingRecord : Prop :=
  ∀ (s : State) (l : Link) (rq : Request) (tag : Byte),
    let h := s.toHub.catchUp
    h.Takes l rq → rq.body = .cancel tag → h.refusal l rq = none →
    ∃ w ∈ h.waiters, w.link = l ∧ w.tag = tag ∧ w.state = .waiting ∧
      ∀ i, h.slotOf w.object = some i →
        let answered : Hub :=
          ({ ((h.takeFrom l).setWaitListAt i ((h.waitListAt i).filter fun x => decide (x ≠ w.stamp))) with
              waiters := h.waiters.filter (fun x => decide (x.stamp ≠ w.stamp)),
              deadlines := if w.deadline = none then h.deadlines
                else h.deadlines.filter (fun e => decide (e.stamp ≠ w.stamp)) } : Hub).reply l rq .ok
            [byteOf w.object.gen, byteOf w.object.slot] none
        exec .cancel s = .next (s.withHub
          (if (h.waitListAt i).head? = some w.stamp then answered.grantPass i else answered))

/-- FREE_WAITER frees the GRANTED, EXPIRED or ABANDONED record that carries the stamp, with its tag; a stamp that no record
carries is dropped, and so is that of a WAITING record.
EXPIRY of a WAITING record: it leaves its wait list and becomes EXPIRED, its EXPIRED notice goes to its link, and the grant
pass runs if it was at the head. The item of any other record, or of none, is dropped. As the item is taken, an entry that
waited for room on intake T is moved (R99); that it is moved before the item has its effect is the model's reading (log entry
24, DEDUCED). -/
def Obligations.FreeWaiterAndExpiry : Prop :=
  (∀ (s : State) (l : Link) (st : Stamp),
      let h := s.toHub.catchUp
      h.turn = some (.item l (.freeWaiter st)) → h.StampsDistinct →
      exec .freeWaiter s = .next (s.withHub { h.takeFrom l with
        waiters := h.waiters.filter fun w => decide (w.stamp ≠ st) || decide (w.state = .waiting) })) ∧
    ∀ (s : State) (st : Stamp),
      let h := s.toHub.catchUp
      h.turn = some (.expiry st) → h.StampsDistinct →
      let taken := h.takeExpiry.moveDue
      ((∀ w ∈ h.waiters, w.stamp = st → w.state ≠ .waiting) → exec .expiry s = .next (s.withHub taken)) ∧
      ∀ w ∈ h.waiters, w.stamp = st → w.state = .waiting → ∀ i, h.slotOf w.object = some i →
        let expired : Hub :=
          ({ (taken.setWaitListAt i ((h.waitListAt i).filter fun x => decide (x ≠ st))) with
              waiters := h.waiters.map (fun x => if x.stamp = st then { x with state := .expired } else x) } : Hub).notice
            w 0xC2 [byteOf w.object.gen, byteOf w.object.slot] none
        exec .expiry s = .next (s.withHub
          (if (h.waitListAt i).head? = some st then expired.grantPass i else expired))

/-! ### Queues and the packet memory -/

/-- SEND that no check refuses appends a message with the next sequence and stores its header and payload in the queue's area.
With a receive waiter the message is claimed for the head waiter, which becomes GRANTED and gets its DELIVER notice after the
response; without one it is READY, and a READY count that has just reached the threshold signals the companion once.
Where the record stands in the area, the coding of its four header bytes and the unwritten padding are the model's choice (log
entry 7, DESIGN CHOICE; R68 leaves the position unobservable). -/
def Obligations.SendAppendsAMessage : Prop :=
  ∀ (s : State) (l : Link) (rq : Request) (hd : Handle) (payload : List Byte),
    let h := s.toHub.catchUp
    h.Takes l rq → rq.body = .send hd payload → h.refusal l rq = none →
    ∃ i o q, h.slotOf hd = some i ∧ (h.slot i).state = .live o ∧ o.part = .queue q ∧
      let mem := q.writeBytes h.packetMemory q.writeOffset (bytes32 payload.length ++ payload)
      let m : Message :=
        { seq := q.nextSeq, length := payload.length, offset := q.writeOffset, state := .ready, deliveries := 0 }
      let stored (m : Message) (waitList : List Stamp) : Hub :=
        (({ h.takeFrom l with packetMemory := mem } : Hub).setLive i o (.queue
          { q with messages := q.messages ++ [m], nextSeq := q.nextSeq + 1, waitList := waitList })).reply l rq .ok
            (bytes16 q.nextSeq.toNat) none
      (q.waitList = [] →
        exec .send s = .next (s.withHub
          (match q.companion with
          | some c =>
            if q.threshold ≠ 0 ∧ q.readyCount + 1 = q.threshold then (stored m []).signalCompanion c else stored m []
          | none => stored m []))) ∧
      ∀ st rest w, q.waitList = st :: rest → h.findWaiter st = some w →
        let m' : Message := { m with state := .claimed ⟨w.link, w.session, .notice⟩, deliveries := 1 }
        exec .send s = .next (s.withHub
          (({ stored m' rest with
              waiters := h.waiters.map (fun x =>
                if x.stamp = w.stamp then { x with state := .granted, message := some q.nextSeq } else x),
              deadlines := if w.deadline = none then h.deadlines
                else h.deadlines.filter (fun e => decide (e.stamp ≠ w.stamp)) } : Hub).notice w 0xC1
            ([byteOf w.object.gen, byteOf w.object.slot] ++ bytes16 q.nextSeq.toNat ++ [1] ++ bytes16 payload.length ++
              q.readBytes mem (q.writeOffset + 4) payload.length)
            (some { queue := w.object, seq := q.nextSeq })))

/-- The payload of a message reads back as it was sent, and storing it disturbs no payload that is retained in any queue: of
the same queue, since its footprint is free, or of another, since areas do not overlap. The place of a record and its header
(log entry 7) and the address modulo 16,384 (log entry 8) are the model's choice. -/
def Obligations.StoredPayloadsStayWhole : Prop :=
  ∀ (h : Hub) (i : Fin 48) (o : Obj) (q : Queue) (payload : List Byte),
    h.QueuesSound → h.MemoryCanonical → h.objAt i = some o → o.part = .queue q → footprint payload.length ≤ q.freeBytes →
    let mem := q.writeBytes h.packetMemory q.writeOffset (bytes32 payload.length ++ payload)
    q.readBytes mem (q.writeOffset + 4) payload.length = payload ∧
    ∀ j o' q' m, h.objAt j = some o' → o'.part = .queue q' → m ∈ q'.messages →
      q'.payload mem m = q'.payload h.packetMemory m

/-- Only SEND and PIN_RESET write the packet memory, and SEND writes only at the addresses of the new message's record: every
other byte reads as before. The model's choice are that PIN_RESET leaves no byte listed (log entry 6), the place of a record and
its header (log entry 7), the address modulo 16,384 (log entry 8), and that DELETE, SPEND_MESSAGE, PURGE and HUB_RESET leave
the bytes of a released area, and FLUSH and the others those of a reclaimed message, as last written (log entry 28). -/
def Obligations.OnlySendWritesPacketMemory : Prop :=
  (∀ (c : Instr) (s t : State), exec c s = .next t → c ≠ .send → (∀ p, c ≠ .pinReset p) →
    t.packetMemory = s.packetMemory) ∧
  (∀ (l : Link) (rq : Request) (code : ResultCode) (ticks : Nat) (s t : State),
    let h := s.toHub.catchUp
    h.Takes l rq → h.refusal l rq = some code → exec (rq.body.command ticks) s = .next t → t.packetMemory = s.packetMemory) ∧
  ∀ (l : Link) (rq : Request) (hd : Handle) (payload : List Byte) (q : Queue) (s t : State) (a : Nat),
    let h := s.toHub.catchUp
    h.Takes l rq → rq.body = .send hd payload → h.refusal l rq = none → h.queueOf hd = some q → exec .send s = .next t →
    (∀ k < 4 + payload.length, a ≠ (64 * q.base + (q.writeOffset + k) % (64 * q.blocks)) % 16384) →
    Memory.read t.packetMemory a = Memory.read s.packetMemory a

/-- RECEIVE with a READY message claims the oldest one for the requesting link, its session and carrier RESPONSE, with its
deliveries count raised (at most 255), and answers OK with its handle, sequence, deliveries, length and payload; the
reference goes with the response. The model's choice are that no tick event falls within the item, whatever the operand (log
entry 27), and that the payload stands behind the 4 bytes of its header at the message's offset (log entry 7). -/
def Obligations.ReceiveClaimsTheOldestReady : Prop :=
  ∀ (s : State) (l : Link) (rq : Request) (hd : Handle) (priority timeout ticks : Nat),
    let h := s.toHub.catchUp
    h.Takes l rq → rq.body = .receive hd priority timeout → h.refusal l rq = none → h.receiveBlocked hd = false →
    ∃ i o q older m newer, h.slotOf hd = some i ∧ (h.slot i).state = .live o ∧ o.part = .queue q ∧
      q.messages = older ++ m :: newer ∧ (∀ x ∈ older, x.state ≠ .ready) ∧ m.state = .ready ∧
      let m' : Message := { m with state := .claimed ⟨l, rq.session, .response⟩, deliveries := min (m.deliveries + 1) 255 }
      exec (.receive ticks) s = .next (s.withHub (((h.takeFrom l).setLive i o (.queue
          { q with messages := older ++ m' :: newer })).reply l rq .ok
          ([byteOf hd.gen, byteOf hd.slot] ++ bytes16 m.seq.toNat ++ [byteOf m'.deliveries] ++ bytes16 m.length ++
            q.readBytes h.packetMemory (m.offset + 4) m.length)
          (some { queue := hd, seq := m.seq })))

/-- FLUSH that no check refuses makes every READY message SPENT, reclaims, and answers OK with the number flushed; CLAIMED
messages, sequences and waiters stay.
SPEND_MESSAGE makes the message SPENT that carries the sequence and is claimed by the reporting link under the report's
session and carrier, and reclaims; a DRAINING queue whose list is then empty frees its slot. A report that matches no message
is dropped. That the bytes of a reclaimed message and of a released area stay as last written is the model's choice (log entry
28). -/
def Obligations.FlushAndSpendMessage : Prop :=
  (∀ (s : State) (l : Link) (rq : Request) (hd : Handle),
      let h := s.toHub.catchUp
      h.Takes l rq → rq.body = .flush hd → h.refusal l rq = none →
      ∃ i o q, h.slotOf hd = some i ∧ (h.slot i).state = .live o ∧ o.part = .queue q ∧
        let kept := (q.messages.map fun m => if m.state = .ready then { m with state := .spent } else m).dropWhile
          fun m => decide (m.state = .spent)
        exec .flush s = .next (s.withHub (((h.takeFrom l).setLive i o (.queue { q with messages := kept })).reply l rq .ok
            [byteOf (q.messages.countP fun m => decide (m.state = .ready))] none))) ∧
    ∀ (s : State) (l : Link) (ref : MessageRef) (session : Nat) (c : Carrier),
      let h := s.toHub.catchUp
      let matching (m : Message) : Bool := decide (m.seq = ref.seq) && decide (m.state = .claimed ⟨l, session, c⟩)
      h.turn = some (.item l (.spendMessage ref session c)) →
      ((∀ q, h.queueOf ref.queue = some q → q.messages.any matching = false) →
        exec .spendMessage s = .next (s.withHub (h.takeFrom l))) ∧
      ∀ i o q, h.slotOf ref.queue = some i → h.objAt i = some o → o.part = .queue q → q.messages.any matching = true →
        let kept := (q.messages.map fun m => if matching m then { m with state := .spent } else m).dropWhile
          fun m => decide (m.state = .spent)
        exec .spendMessage s = .next (s.withHub ((h.takeFrom l).setSlot i
          (if (h.slot i).state = .draining o ∧ kept = [] then
            { gen := if (h.slot i).gen < 255 then (h.slot i).gen + 1 else 1, state := .free }
          else
            { h.slot i with
              state := (h.slot i).state.modObj fun o => { o with part := .queue { q with messages := kept } } })))

/-! ### Eviction, hub reset, purge -/

/-- EVICT that no check refuses ends the session of an ACTIVE target with cause EVICTED and tag 0, and has no effect on an IDLE
or ENDING one; the requester is answered OK. -/
def Obligations.EvictEndsTheTargetsSession : Prop :=
  ∀ (s : State) (l t : Link) (rq : Request),
    let h := s.toHub.catchUp
    h.Takes l rq → rq.body = .evict (linkNumber t) → h.refusal l rq = none →
    t ≠ l ∧ exec .evict s = .next (s.withHub
      (((h.takeFrom l).setLink t
        (if (h.link t).session = .active then
          { h.link t with session := .ending, keepaliveCount := none, heldHello := none, teardown := some ⟨.evicted, 0, false⟩ }
        else h.link t)).reply l rq .ok [] none))

/-- HUB_RESET from a link with MANAGE: every LIVE or DRAINING slot is freed and every FREE one keeps its generation, every
waiter record is freed, every intake and the deadline list are emptied, and the requester's link is remembered; the tick, the
stamp counter, READY and the line speed go on as they are. At each link: IDLE stays as it is; an ACTIVE session ends, IDLE at
once, with its list cut to SESSION_ENDED (HUB_RESET), under the request's tag on the requesting link and tag 0 elsewhere; an
ENDING link finishes what is outstanding of its session end, without reports or purge, and leaves ENDING as at a purge
completion. Its SESSION_ENDED shares the closing delimiter of a frame that completed at step 2 of that session end, here or by
a FRAME_COMPLETE before (the model's choice, log entry 14). There is no response. -/
def Obligations.HubResetClearsTheEngine : Prop :=
  ∀ (s : State) (l : Link) (rq : Request),
    let h := s.toHub.catchUp
    h.Takes l rq → rq.body = .hubReset → h.manages l = true →
    ∃ t, exec .hubReset s = .next t ∧ t.pending = s.pending ∧
      (∀ i, t.toHub.slot i = if (h.slot i).state = .free then h.slot i
        else { gen := if (h.slot i).gen < 255 then (h.slot i).gen + 1 else 1, state := .free }) ∧
      t.waiters = [] ∧ (∀ m, t.toHub.intake m = []) ∧ t.deadlines = [] ∧ t.expiryIntake = [] ∧ t.remembered = .link l ∧
      t.tick = h.tick ∧ t.stampCounter = h.stampCounter ∧ t.ready = h.ready ∧ t.speed = h.speed ∧
      ∀ m, let k := h.link m
        (k.session = .idle → t.toHub.link m = k) ∧
        (k.session = .active →
          t.toHub.link m =
            ({ k.stopFrame.1 with
                session := .idle, keepaliveCount := none, heldHello := none, teardown := none, tx := none, txList := [],
                window := Vector.replicate 4 none } : LinkState).enqueue k.stopFrame.2.isSome
              { cls := .sessionNotice, session := none, msg := none,
                frame := { kind := 0xC8, tag := if m = l then rq.tag else 0, status := 0, body := [5, byteOf k.sessionNo] } }) ∧
        (k.session = .ending →
          let cleared : LinkState :=
            { k.stopFrame.1 with window := Vector.replicate 4 none, txList := [], tx := none, teardown := none }
          let done : LinkState :=
            match k.teardown with
            | none => k
            | some e =>
              if e.cause = .lineBreak then cleared
              else cleared.enqueue (k.stopFrame.2.isSome || e.delimiterSent)
                { cls := .sessionNotice, session := none, msg := none,
                  frame := { kind := 0xC8, tag := e.tag, status := 0, body := [e.cause.byte, byteOf k.sessionNo] } }
          t.toHub.link m = ((h.setLink m done).purgeCompletion m).link m)

/-- An ENDING link that receives its purge completion becomes IDLE; a held HELLO is then answered, and takes the lowest free
slot: one whose fields pass begins a session, one whose fields fail is answered OUT_OF_RANGE. That the slot records the session
number before it is the model's reading (log entry 22, DEDUCED). -/
def Obligations.PurgeCompletionTakesUpTheHello : Prop :=
  ∀ (h : Hub) (l : Link), (h.link l).session = .ending →
    let k : LinkState := { h.link l with session := .idle, heldHello := none }
    ((h.link l).heldHello = none → h.purgeCompletion l = h.setLink l k) ∧
    ∀ he i, (h.link l).heldHello = some he → k.LowestFree i →
      let no := if k.sessionNo < 255 then k.sessionNo + 1 else 1
      let held : LinkState := { k with window := k.window.set i (some k.sessionNo) }
      let answer (k : LinkState) (code : ResultCode) (body : List Byte) : LinkState :=
        k.enqueue false
          { cls := .response i, frame := { kind := 0x81, tag := he.tag, status := code.byte, body := body },
            session := none, msg := none }
      (he.acceptable = true →
        h.purgeCompletion l = h.setLink l (answer
          { held with session := .active, sessionNo := no, label := he.label, keepalive := he.interval,
                      keepaliveCount := if he.interval = 0 then none else some he.interval,
                      sessionsBegun := min (k.sessionsBegun + 1) 65535 } .ok
          ([byteOf no, if k.manage then 1 else 0, 4, 24, 48] ++ bytes32 h.tick.toNat ++ [0x51, 2]))) ∧
      (he.acceptable = false → h.purgeCompletion l = h.setLink l (answer held .outOfRange []))

/-- PURGE visits the slots 0 to 47 in order, then frees the link's records, then makes the companion signallings called for, in
the order of the slots that called for them, and then hands the purge completion to the link (R113, R90).
It takes down everything the link had in flight: no record of it is left, no holding of it at any LIVE RESOURCE, no claim
of it on any message, no waiter of it in any wait list; the other links' records stay, and an ENDING link is ENDING no more. The tick and the stamp counter stay as
they are, and so does the packet memory: that the bytes of a DRAINING queue's area stay as last written when its slot is freed
is the model's choice (log entry 28). -/
def Obligations.PurgeLeavesNothingOfTheLink : Prop :=
  ∀ (s : State) (l : Link),
    let h := s.toHub.catchUp
    h.turn = some (.item l .purge) →
    (let visited : Hub × List Handle := (List.finRange 48).foldl
        (fun p i => ((Hub.purgeSlot l p.1 i).1, p.2 ++ (Hub.purgeSlot l p.1 i).2.toList)) (h.takeFrom l, [])
     let freed : Hub := { visited.1 with waiters := visited.1.waiters.filter fun w => decide (w.link ≠ l) }
     exec .purge s = .next (s.withHub ((visited.2.foldl Hub.signalCompanion freed).purgeCompletion l))) ∧
    ∃ t, exec .purge s = .next t ∧ t.pending = s.pending ∧
      (∀ w ∈ t.waiters, w.link ≠ l) ∧
      t.waiters.map Waiter.stamp = (h.waiters.filter fun w => decide (w.link ≠ l)).map Waiter.stamp ∧
      (∀ i o r, (t.toHub.slot i).state = .live o → o.part = .resource r → r.holdings.get l = 0) ∧
      (∀ i o q, t.toHub.objAt i = some o → o.part = .queue q → ∀ m ∈ q.messages, ∀ session c,
        m.state ≠ .claimed ⟨l, session, c⟩) ∧
      (∀ i o st w, (t.toHub.slot i).state = .live o → st ∈ o.part.waitList → h.findWaiter st = some w → w.link ≠ l) ∧
      ((h.link l).session = .ending → (t.toHub.link l).session ≠ .ending) ∧
      t.toHub.remembered = .link l ∧ t.tick = h.tick ∧ t.stampCounter = h.stampCounter ∧ t.packetMemory = h.packetMemory

/-- The purge at one slot. The link's waiters leave the wait list, whose other records keep their order, and the entries of
their deadlines are removed (R38, R87). A robust RESOURCE gets the link's tokens back as available, one that is not robust has
them stranded; the grant pass runs if a waiter was removed or a holding moved (R39, R40), and at a SIGNAL if a waiter was
removed. At a LIVE queue the link's claims are READY again, in their places, SPENT messages at the oldest end are reclaimed,
READY messages are handed out to the remaining waiters, and the companion is to be signalled if the READY count has then
reached the threshold from below (R87 to R90); at a DRAINING queue the claims are SPENT, and the slot is freed when no message
is left (R88). A FREE slot is passed over. That the bytes of a reclaimed message and of a released area stay as last written is
the model's choice (log entry 28). -/
def Obligations.PurgeReturnsTokensAndMessages : Prop :=
  ∀ (h : Hub) (l : Link) (i : Fin 48),
    let mine (st : Stamp) : Bool := (h.findWaiter st).any fun w => decide (w.link = l)
    let kept (ws : List Stamp) : List Stamp := ws.filter fun st => !mine st
    let without (ws : List Stamp) : Hub :=
      { h with deadlines := h.deadlines.filter fun e => decide (e.stamp ∉ ws.filter mine) }
    ((h.slot i).state = .free → Hub.purgeSlot l h i = (h, none)) ∧
    (∀ (o : Obj) (r : Resource), (h.slot i).state = .live o → o.part = .resource r →
      let n := r.holdings.get l
      let after : Hub := (without r.waitList).setLive i o (.resource
        { r with available := if r.robust then r.available + n else r.available,
                 stranded := if r.robust then r.stranded else r.stranded + n, holdings := r.holdings.set l 0,
                 waitList := kept r.waitList })
      Hub.purgeSlot l h i = (if n = 0 ∧ kept r.waitList = r.waitList then after else after.grantPass i, none)) ∧
    (∀ (o : Obj) (g : Signal), (h.slot i).state = .live o → o.part = .signal g →
      let after : Hub := (without g.waitList).setLive i o (.signal { g with waitList := kept g.waitList })
      Hub.purgeSlot l h i = (if kept g.waitList = g.waitList then after else after.grantPass i, none)) ∧
    ∀ (o : Obj) (q : Queue), o.part = .queue q →
      let left (next : MessageState) : List Message :=
        (q.messages.map fun m => if m.claimedBy l then { m with state := next } else m).dropWhile
          fun m => decide (m.state = .spent)
      ((h.slot i).state = .live o →
        let after : Hub := Hub.handOut i (kept q.waitList)
          ((without q.waitList).setLive i o (.queue { q with messages := left .ready, waitList := kept q.waitList }))
        ∃ q', after.objAt i = some { o with part := .queue q' } ∧
          Hub.purgeSlot l h i =
            (after,
             if q.threshold ≠ 0 ∧ q.readyCount < q.threshold ∧
                q.threshold ≤ q'.messages.countP (fun m => decide (m.state = .ready)) then q.companion else none)) ∧
      ((h.slot i).state = .draining o → Hub.purgeSlot l h i =
        ((without q.waitList).setSlot i
          (if left .spent = [] then { gen := if (h.slot i).gen < 255 then (h.slot i).gen + 1 else 1, state := .free }
           else
            { h.slot i with
              state := .draining { o with part := .queue { q with messages := left .spent, waitList := kept q.waitList } } }),
         none))

/-- The hand-out (R89): while a waiter stands at the head and a message is READY, the oldest READY message is claimed for the
head waiter, which leaves the list, becomes GRANTED, loses its deadline entry and gets its DELIVER notice. Without a waiter, or
with no message READY, nothing changes. That the payload stands behind the 4 bytes of its header at the message's offset is the
model's choice (log entry 7). -/
def Obligations.HandOutServesWaitersInOrder : Prop :=
  (∀ (h : Hub) (i : Fin 48), Hub.handOut i [] h = h) ∧
  ∀ (h : Hub) (i : Fin 48) (o : Obj) (q : Queue) (st : Stamp) (rest : List Stamp) (w : Waiter),
    h.objAt i = some o → o.part = .queue q → q.waitList = st :: rest → h.findWaiter st = some w →
    (q.readyCount = 0 → Hub.handOut i (st :: rest) h = h) ∧
    ∀ older m newer, q.messages = older ++ m :: newer → (∀ x ∈ older, x.state ≠ .ready) → m.state = .ready →
      let m' : Message :=
        { m with state := .claimed ⟨w.link, w.session, .notice⟩, deliveries := min (m.deliveries + 1) 255 }
      Hub.handOut i (st :: rest) h = Hub.handOut i rest
        (({ (h.setPart i (.queue { q with messages := older ++ m' :: newer, waitList := rest })) with
            waiters := h.waiters.map (fun x =>
              if x.stamp = w.stamp then { x with state := .granted, message := some m.seq } else x),
            deadlines := if w.deadline = none then h.deadlines
              else h.deadlines.filter (fun e => decide (e.stamp ≠ w.stamp)) } : Hub).notice w 0xC1
          ([byteOf w.object.gen, byteOf w.object.slot] ++ bytes16 m.seq.toNat ++ [byteOf m'.deliveries] ++
            bytes16 m.length ++ q.readBytes h.packetMemory (m.offset + 4) m.length)
          (some { queue := w.object, seq := m.seq }))

/-! ### Frames of groups of commands -/

/-- A command of one link's line (a character, a break, an error, a frame, a completion, a teardown) changes nothing of the
engine but the link's own intake, and nothing of any other link, beyond the tick event's outstanding work. -/
def Obligations.LineCommandsLeaveTheRest : Prop :=
  ∀ (s t : State) (l : Link) (v : Byte) (cause : ReceiveFault) (c : Instr),
    c ∈ [.lineBreak l, .settlingComplete l, .receiveError l cause, .abortMark l, .unknownKind l, .hello l, .bye l, .ping l,
      .linkStatus l, .objectRequest l, .sessionEndTeardown l, .frameComplete l, .goodCharacter l v] →
    exec c s = .next t →
    let h := s.toHub.catchUp
    t.toHub = { h with links := t.links, intakes := t.intakes } ∧
      ∀ m, m ≠ l → t.toHub.link m = h.link m ∧ t.toHub.intake m = h.intake m

/-- An engine command leaves the tick, READY and the line speed as they are, and of every link the assembler, its buffer, the
frame-error counter and the MANAGE right. But for EVICT, HUB_RESET and PURGE, it changes of a link only LOSS, the transmit list,
the frame in transmission and the service window. Where tick events fall within the item of an ACQUIRE, WAIT or RECEIVE (R97;
log entry 27), all this is so beside what those tick events do.
EVICT changes besides these only the session state, the keepalive count, the held HELLO and the outstanding teardown of an
ACTIVE link. PURGE changes of another link only LOSS, the transmit list and the frame in transmission, and of its own what the
purge completion changes there. HUB_RESET leaves an IDLE link as it is, but that the response of a refused one, which is
discarded there, releases its slot at its requester (R167). -/
def Obligations.EngineCommandsLeaveTheLines : Prop :=
  ∀ (s t : State),
    let h := s.toHub.catchUp
    (∀ c : Instr, c.takesItem = true → exec c s = .next t →
      ∃ n, (n = 0 ∨ n = c.ticks) ∧
        let g := h.tickEvents n
        t.tick = g.tick ∧ t.ready = g.ready ∧ t.speed = g.speed ∧
          ∀ l, (t.toHub.link l).asm = (g.link l).asm ∧ (t.toHub.link l).buffer = (g.link l).buffer ∧
            (t.toHub.link l).frameErrors = (g.link l).frameErrors ∧ (t.toHub.link l).manage = (g.link l).manage) ∧
    (∀ c : Instr, c.takesItem = true → c ≠ .evict → c ≠ .hubReset → c ≠ .purge → exec c s = .next t →
      ∃ n, (n = 0 ∨ n = c.ticks) ∧
        let g := h.tickEvents n
        ∀ l, t.toHub.link l =
          { g.link l with loss := (t.toHub.link l).loss, txList := (t.toHub.link l).txList, tx := (t.toHub.link l).tx,
                          window := (t.toHub.link l).window }) ∧
    (exec .evict s = .next t → ∀ l,
      ((h.link l).session ≠ .active → t.toHub.link l =
        { h.link l with loss := (t.toHub.link l).loss, txList := (t.toHub.link l).txList, tx := (t.toHub.link l).tx,
                        window := (t.toHub.link l).window }) ∧
      t.toHub.link l =
        { h.link l with loss := (t.toHub.link l).loss, txList := (t.toHub.link l).txList, tx := (t.toHub.link l).tx,
                        window := (t.toHub.link l).window, session := (t.toHub.link l).session,
                        keepaliveCount := (t.toHub.link l).keepaliveCount, heldHello := (t.toHub.link l).heldHello,
                        teardown := (t.toHub.link l).teardown }) ∧
    (exec .purge s = .next t → ∀ l, h.turn = some (.item l .purge) →
      t.toHub.link l = (h.purgeCompletion l).link l ∧
      ∀ m, m ≠ l → t.toHub.link m =
        { h.link m with loss := (t.toHub.link m).loss, txList := (t.toHub.link m).txList, tx := (t.toHub.link m).tx }) ∧
    (exec .hubReset s = .next t → ∀ l, (h.link l).session = .idle →
      t.toHub.link l = { h.link l with window := (t.toHub.link l).window } ∧
      ((∀ rq, h.Takes l rq → rq.body = .hubReset → h.manages l = true) → t.toHub.link l = h.link l))

/-! ### Invariants -/

/-- Right after reset every invariant holds, for every setting of the straps. -/
def Obligations.ResetSatisfiesTheInvariants : Prop :=
  ∀ p : Straps,
    (Hub.reset p).MemoryCanonical ∧ (Hub.reset p).GenerationsLegal ∧ (Hub.reset p).RequestsSpelled ∧
    (Hub.reset p).NamesAndAccess ∧
    (Hub.reset p).TokensConserved ∧ (Hub.reset p).QueuesSound ∧ (Hub.reset p).StampsDistinct ∧
    (Hub.reset p).TagsDistinct ∧ (Hub.reset p).WaitListsSound ∧ (Hub.reset p).NothingOverdue ∧
    (Hub.reset p).DeadlinesSound ∧ (Hub.reset p).DeadlinesOrdered ∧ (Hub.reset p).DeadlinesNear ∧
    (Hub.reset p).SessionsSound ∧ (Hub.reset p).ServiceSlotsSound ∧ (Hub.reset p).LinksInRange ∧
    (Hub.reset p).LinksTransmitting ∧ State.reset.toHub = Hub.reset Straps.low ∧ State.reset.pending = []

/-- Every step keeps the packet memory in its canonical form, inside 16,384 bytes. -/
def Obligations.StepKeepsMemoryCanonical : Prop :=
  ∀ s t : State, s.toHub.MemoryCanonical → step s = .next t → t.toHub.MemoryCanonical

/-- Every step keeps the generations in 1..255.
Every step keeps names legal (1 to 8 bytes, each of them legal) and distinct, and every creator in its object's access set,
together with the fields of every request on an intake as a well-formed body spells them. -/
def Obligations.StepKeepsGenerationsAndNames : Prop :=
  (∀ s t : State, s.toHub.GenerationsLegal → step s = .next t → t.toHub.GenerationsLegal) ∧
    ∀ s t : State, s.toHub.RequestsSpelled → s.toHub.NamesAndAccess → step s = .next t →
      t.toHub.RequestsSpelled ∧ t.toHub.NamesAndAccess

/-- Tokens are neither made nor lost: every step keeps, for every RESOURCE, available plus holdings plus stranded equal to the
limit, with none stranded on a robust one, and every SIGNAL's count at most its limit. -/
def Obligations.StepConservesTokens : Prop :=
  ∀ s t : State, s.toHub.TokensConserved → step s = .next t → t.toHub.TokensConserved

/-- Every step keeps the stamps of the records distinct and at most the stamp counter, and each link's tags distinct and its
records at most 24.
Beside the records' other invariants every step keeps the deadline list and intake T sound (R96, R99, R100): each stamp at most
once, in the list or on intake T; at most 96 of each; entries of WAITING records alone, with their deadlines; an entry for every
WAITING record with a deadline; and the list earlier first, equal deadlines by stamp, while all deadlines lie within 2^30 ticks
of the counter, where R95 gives them a consistent order. -/
def Obligations.StepKeepsStampsAndTagsDistinct : Prop :=
  (∀ s t : State, s.toHub.StampsDistinct → s.toHub.TagsDistinct → step s = .next t →
    t.toHub.StampsDistinct ∧ t.toHub.TagsDistinct) ∧
  ∀ s t : State, s.toHub.EngineSound → s.toHub.DeadlinesSound → step s = .next t →
    t.toHub.DeadlinesSound ∧ (s.toHub.DeadlinesNear → s.toHub.DeadlinesOrdered → t.toHub.DeadlinesOrdered)

/-- Every step keeps the queues sound: areas apart, messages chained inside their area and within the entries, the oldest never
SPENT, and a DRAINING queue with a claimed message and none READY. -/
def Obligations.StepKeepsQueuesSound : Prop :=
  ∀ s t : State, s.toHub.QueuesSound → step s = .next t → t.toHub.QueuesSound

/-- Every step keeps the link records in range: counters, session numbers, keepalive, buffers; and the transmitter sending the
head of a non-empty list. -/
def Obligations.StepKeepsLinksInRange : Prop :=
  ∀ s t : State, s.toHub.LinksInRange → s.toHub.LinksTransmitting → step s = .next t →
    t.toHub.LinksInRange ∧ t.toHub.LinksTransmitting

/-- No link is left ENDING for ever: every step keeps each ENDING link with either its teardown outstanding or its one purge
item on its intake, and every other link with neither and without a held HELLO; nothing is in transmission once step 2 of a
session end has let a frame complete (log entry 14); and every response and untaken request holds a service slot of its own. -/
def Obligations.StepKeepsSessionsAndSlotsSound : Prop :=
  ∀ s t : State, s.toHub.SessionsSound → s.toHub.ServiceSlotsSound → step s = .next t →
    t.toHub.SessionsSound ∧ t.toHub.ServiceSlotsSound

/-- No waiter is lost or overdue: every step keeps each WAITING record in the wait list of the object it names, once, and nothing
else in any list, and leaves no head that could be satisfied. -/
def Obligations.StepLeavesNoWaiterLostOrOverdue : Prop :=
  ∀ s t : State, s.toHub.EngineSound → step s = .next t → t.toHub.EngineSound
end

