-- ==== Sys2Proof/Laws/State.lean ====
section
/-! SUPPORT. What each update of the hub leaves as it is, field by field, and what a read after a write gives. -/

namespace Sys2Proof.Machine

/-! ### One value for each link -/

@[simp] theorem PerLink.get_all {α : Type} (x : α) (l : Link) : (PerLink.all x).get l = x := by cases l <;> rfl

@[simp] theorem PerLink.get_set_self {α : Type} (p : PerLink α) (l : Link) (x : α) : (p.set l x).get l = x := by
  cases l <;> rfl

theorem PerLink.get_set_other {α : Type} (p : PerLink α) {l m : Link} (x : α) (ne : m ≠ l) :
    (p.set l x).get m = p.get m := by
  cases l <;> cases m <;> first | rfl | exact absurd rfl ne

theorem PerLink.get_set {α : Type} (p : PerLink α) (l m : Link) (x : α) :
    (p.set l x).get m = if m = l then x else p.get m := by
  split
  · subst m; simp
  · exact p.get_set_other x ‹_›

@[simp] theorem PerLink.set_get {α : Type} (p : PerLink α) (l : Link) : p.set l (p.get l) = p := by cases l <;> rfl

@[simp] theorem PerLink.set_set {α : Type} (p : PerLink α) (l : Link) (x y : α) : (p.set l x).set l y = p.set l y := by
  cases l <;> rfl

theorem PerLink.ext_get {α : Type} {p q : PerLink α} (same : ∀ l, p.get l = q.get l) : p = q := by
  cases p; cases q
  have a := same .a; have b := same .b; have c := same .c; have d := same .d
  simp only [PerLink.get] at a b c d
  simp [a, b, c, d]

namespace Hub

/-! ### Fields left as they are -/

@[simp] theorem setLink_ready (h : Hub) (l : Link) (k : LinkState) : (h.setLink l k).ready = h.ready := rfl
@[simp] theorem setLink_speed (h : Hub) (l : Link) (k : LinkState) : (h.setLink l k).speed = h.speed := rfl
@[simp] theorem setLink_tick (h : Hub) (l : Link) (k : LinkState) : (h.setLink l k).tick = h.tick := rfl
@[simp] theorem setLink_deadlines (h : Hub) (l : Link) (k : LinkState) : (h.setLink l k).deadlines = h.deadlines := rfl
@[simp] theorem setLink_expiryIntake (h : Hub) (l : Link) (k : LinkState) :
    (h.setLink l k).expiryIntake = h.expiryIntake := rfl
@[simp] theorem setLink_intakes (h : Hub) (l : Link) (k : LinkState) : (h.setLink l k).intakes = h.intakes := rfl
@[simp] theorem setLink_remembered (h : Hub) (l : Link) (k : LinkState) :
    (h.setLink l k).remembered = h.remembered := rfl
@[simp] theorem setLink_stampCounter (h : Hub) (l : Link) (k : LinkState) :
    (h.setLink l k).stampCounter = h.stampCounter := rfl
@[simp] theorem setLink_slots (h : Hub) (l : Link) (k : LinkState) : (h.setLink l k).slots = h.slots := rfl
@[simp] theorem setLink_waiters (h : Hub) (l : Link) (k : LinkState) : (h.setLink l k).waiters = h.waiters := rfl
@[simp] theorem setLink_packetMemory (h : Hub) (l : Link) (k : LinkState) :
    (h.setLink l k).packetMemory = h.packetMemory := rfl

@[simp] theorem modLink_ready (h : Hub) (l : Link) (f : LinkState → LinkState) : (h.modLink l f).ready = h.ready := rfl
@[simp] theorem modLink_speed (h : Hub) (l : Link) (f : LinkState → LinkState) : (h.modLink l f).speed = h.speed := rfl
@[simp] theorem modLink_tick (h : Hub) (l : Link) (f : LinkState → LinkState) : (h.modLink l f).tick = h.tick := rfl
@[simp] theorem modLink_deadlines (h : Hub) (l : Link) (f : LinkState → LinkState) :
    (h.modLink l f).deadlines = h.deadlines := rfl
@[simp] theorem modLink_expiryIntake (h : Hub) (l : Link) (f : LinkState → LinkState) :
    (h.modLink l f).expiryIntake = h.expiryIntake := rfl
@[simp] theorem modLink_intakes (h : Hub) (l : Link) (f : LinkState → LinkState) :
    (h.modLink l f).intakes = h.intakes := rfl
@[simp] theorem modLink_remembered (h : Hub) (l : Link) (f : LinkState → LinkState) :
    (h.modLink l f).remembered = h.remembered := rfl
@[simp] theorem modLink_stampCounter (h : Hub) (l : Link) (f : LinkState → LinkState) :
    (h.modLink l f).stampCounter = h.stampCounter := rfl
@[simp] theorem modLink_slots (h : Hub) (l : Link) (f : LinkState → LinkState) : (h.modLink l f).slots = h.slots := rfl
@[simp] theorem modLink_waiters (h : Hub) (l : Link) (f : LinkState → LinkState) :
    (h.modLink l f).waiters = h.waiters := rfl
@[simp] theorem modLink_packetMemory (h : Hub) (l : Link) (f : LinkState → LinkState) :
    (h.modLink l f).packetMemory = h.packetMemory := rfl

@[simp] theorem linkAnswer_ready (h : Hub) (l : Link) (slot : Fin 4) (kind tag : Byte) (code : ResultCode) (body : List Byte) :
    (h.linkAnswer l slot kind tag code body).ready = h.ready := rfl
@[simp] theorem linkAnswer_speed (h : Hub) (l : Link) (slot : Fin 4) (kind tag : Byte) (code : ResultCode) (body : List Byte) :
    (h.linkAnswer l slot kind tag code body).speed = h.speed := rfl
@[simp] theorem linkAnswer_tick (h : Hub) (l : Link) (slot : Fin 4) (kind tag : Byte) (code : ResultCode) (body : List Byte) :
    (h.linkAnswer l slot kind tag code body).tick = h.tick := rfl
@[simp] theorem linkAnswer_deadlines (h : Hub) (l : Link) (slot : Fin 4) (kind tag : Byte) (code : ResultCode) (body : List Byte) :
    (h.linkAnswer l slot kind tag code body).deadlines = h.deadlines := rfl
@[simp] theorem linkAnswer_expiryIntake (h : Hub) (l : Link) (slot : Fin 4) (kind tag : Byte) (code : ResultCode) (body : List Byte) :
    (h.linkAnswer l slot kind tag code body).expiryIntake = h.expiryIntake := rfl
@[simp] theorem linkAnswer_intakes (h : Hub) (l : Link) (slot : Fin 4) (kind tag : Byte) (code : ResultCode) (body : List Byte) :
    (h.linkAnswer l slot kind tag code body).intakes = h.intakes := rfl
@[simp] theorem linkAnswer_remembered (h : Hub) (l : Link) (slot : Fin 4) (kind tag : Byte) (code : ResultCode) (body : List Byte) :
    (h.linkAnswer l slot kind tag code body).remembered = h.remembered := rfl
@[simp] theorem linkAnswer_stampCounter (h : Hub) (l : Link) (slot : Fin 4) (kind tag : Byte) (code : ResultCode) (body : List Byte) :
    (h.linkAnswer l slot kind tag code body).stampCounter = h.stampCounter := rfl
@[simp] theorem linkAnswer_slots (h : Hub) (l : Link) (slot : Fin 4) (kind tag : Byte) (code : ResultCode) (body : List Byte) :
    (h.linkAnswer l slot kind tag code body).slots = h.slots := rfl
@[simp] theorem linkAnswer_waiters (h : Hub) (l : Link) (slot : Fin 4) (kind tag : Byte) (code : ResultCode) (body : List Byte) :
    (h.linkAnswer l slot kind tag code body).waiters = h.waiters := rfl
@[simp] theorem linkAnswer_packetMemory (h : Hub) (l : Link) (slot : Fin 4) (kind tag : Byte) (code : ResultCode) (body : List Byte) :
    (h.linkAnswer l slot kind tag code body).packetMemory = h.packetMemory := rfl

@[simp] theorem handOver_ready (h : Hub) (l : Link) (session : Nat) (item : TxItem) :
    (h.handOver l session item).ready = h.ready := rfl
@[simp] theorem handOver_speed (h : Hub) (l : Link) (session : Nat) (item : TxItem) :
    (h.handOver l session item).speed = h.speed := rfl
@[simp] theorem handOver_tick (h : Hub) (l : Link) (session : Nat) (item : TxItem) :
    (h.handOver l session item).tick = h.tick := rfl
@[simp] theorem handOver_deadlines (h : Hub) (l : Link) (session : Nat) (item : TxItem) :
    (h.handOver l session item).deadlines = h.deadlines := rfl
@[simp] theorem handOver_expiryIntake (h : Hub) (l : Link) (session : Nat) (item : TxItem) :
    (h.handOver l session item).expiryIntake = h.expiryIntake := rfl
@[simp] theorem handOver_intakes (h : Hub) (l : Link) (session : Nat) (item : TxItem) :
    (h.handOver l session item).intakes = h.intakes := rfl
@[simp] theorem handOver_remembered (h : Hub) (l : Link) (session : Nat) (item : TxItem) :
    (h.handOver l session item).remembered = h.remembered := rfl
@[simp] theorem handOver_stampCounter (h : Hub) (l : Link) (session : Nat) (item : TxItem) :
    (h.handOver l session item).stampCounter = h.stampCounter := rfl
@[simp] theorem handOver_slots (h : Hub) (l : Link) (session : Nat) (item : TxItem) :
    (h.handOver l session item).slots = h.slots := rfl
@[simp] theorem handOver_waiters (h : Hub) (l : Link) (session : Nat) (item : TxItem) :
    (h.handOver l session item).waiters = h.waiters := rfl
@[simp] theorem handOver_packetMemory (h : Hub) (l : Link) (session : Nat) (item : TxItem) :
    (h.handOver l session item).packetMemory = h.packetMemory := rfl

@[simp] theorem reply_ready (h : Hub) (l : Link) (rq : Request) (code : ResultCode) (body : List Byte) (msg : Option MessageRef) :
    (h.reply l rq code body msg).ready = h.ready := rfl
@[simp] theorem reply_speed (h : Hub) (l : Link) (rq : Request) (code : ResultCode) (body : List Byte) (msg : Option MessageRef) :
    (h.reply l rq code body msg).speed = h.speed := rfl
@[simp] theorem reply_tick (h : Hub) (l : Link) (rq : Request) (code : ResultCode) (body : List Byte) (msg : Option MessageRef) :
    (h.reply l rq code body msg).tick = h.tick := rfl
@[simp] theorem reply_deadlines (h : Hub) (l : Link) (rq : Request) (code : ResultCode) (body : List Byte) (msg : Option MessageRef) :
    (h.reply l rq code body msg).deadlines = h.deadlines := rfl
@[simp] theorem reply_expiryIntake (h : Hub) (l : Link) (rq : Request) (code : ResultCode) (body : List Byte) (msg : Option MessageRef) :
    (h.reply l rq code body msg).expiryIntake = h.expiryIntake := rfl
@[simp] theorem reply_intakes (h : Hub) (l : Link) (rq : Request) (code : ResultCode) (body : List Byte) (msg : Option MessageRef) :
    (h.reply l rq code body msg).intakes = h.intakes := rfl
@[simp] theorem reply_remembered (h : Hub) (l : Link) (rq : Request) (code : ResultCode) (body : List Byte) (msg : Option MessageRef) :
    (h.reply l rq code body msg).remembered = h.remembered := rfl
@[simp] theorem reply_stampCounter (h : Hub) (l : Link) (rq : Request) (code : ResultCode) (body : List Byte) (msg : Option MessageRef) :
    (h.reply l rq code body msg).stampCounter = h.stampCounter := rfl
@[simp] theorem reply_slots (h : Hub) (l : Link) (rq : Request) (code : ResultCode) (body : List Byte) (msg : Option MessageRef) :
    (h.reply l rq code body msg).slots = h.slots := rfl
@[simp] theorem reply_waiters (h : Hub) (l : Link) (rq : Request) (code : ResultCode) (body : List Byte) (msg : Option MessageRef) :
    (h.reply l rq code body msg).waiters = h.waiters := rfl
@[simp] theorem reply_packetMemory (h : Hub) (l : Link) (rq : Request) (code : ResultCode) (body : List Byte) (msg : Option MessageRef) :
    (h.reply l rq code body msg).packetMemory = h.packetMemory := rfl

@[simp] theorem refuse_ready (h : Hub) (l : Link) (rq : Request) (code : ResultCode) :
    (h.refuse l rq code).ready = h.ready := rfl
@[simp] theorem refuse_speed (h : Hub) (l : Link) (rq : Request) (code : ResultCode) :
    (h.refuse l rq code).speed = h.speed := rfl
@[simp] theorem refuse_tick (h : Hub) (l : Link) (rq : Request) (code : ResultCode) :
    (h.refuse l rq code).tick = h.tick := rfl
@[simp] theorem refuse_deadlines (h : Hub) (l : Link) (rq : Request) (code : ResultCode) :
    (h.refuse l rq code).deadlines = h.deadlines := rfl
@[simp] theorem refuse_expiryIntake (h : Hub) (l : Link) (rq : Request) (code : ResultCode) :
    (h.refuse l rq code).expiryIntake = h.expiryIntake := rfl
@[simp] theorem refuse_intakes (h : Hub) (l : Link) (rq : Request) (code : ResultCode) :
    (h.refuse l rq code).intakes = h.intakes := rfl
@[simp] theorem refuse_remembered (h : Hub) (l : Link) (rq : Request) (code : ResultCode) :
    (h.refuse l rq code).remembered = h.remembered := rfl
@[simp] theorem refuse_stampCounter (h : Hub) (l : Link) (rq : Request) (code : ResultCode) :
    (h.refuse l rq code).stampCounter = h.stampCounter := rfl
@[simp] theorem refuse_slots (h : Hub) (l : Link) (rq : Request) (code : ResultCode) :
    (h.refuse l rq code).slots = h.slots := rfl
@[simp] theorem refuse_waiters (h : Hub) (l : Link) (rq : Request) (code : ResultCode) :
    (h.refuse l rq code).waiters = h.waiters := rfl
@[simp] theorem refuse_packetMemory (h : Hub) (l : Link) (rq : Request) (code : ResultCode) :
    (h.refuse l rq code).packetMemory = h.packetMemory := rfl

@[simp] theorem notice_ready (h : Hub) (w : Waiter) (kind : Byte) (body : List Byte) (msg : Option MessageRef) :
    (h.notice w kind body msg).ready = h.ready := rfl
@[simp] theorem notice_speed (h : Hub) (w : Waiter) (kind : Byte) (body : List Byte) (msg : Option MessageRef) :
    (h.notice w kind body msg).speed = h.speed := rfl
@[simp] theorem notice_tick (h : Hub) (w : Waiter) (kind : Byte) (body : List Byte) (msg : Option MessageRef) :
    (h.notice w kind body msg).tick = h.tick := rfl
@[simp] theorem notice_deadlines (h : Hub) (w : Waiter) (kind : Byte) (body : List Byte) (msg : Option MessageRef) :
    (h.notice w kind body msg).deadlines = h.deadlines := rfl
@[simp] theorem notice_expiryIntake (h : Hub) (w : Waiter) (kind : Byte) (body : List Byte) (msg : Option MessageRef) :
    (h.notice w kind body msg).expiryIntake = h.expiryIntake := rfl
@[simp] theorem notice_intakes (h : Hub) (w : Waiter) (kind : Byte) (body : List Byte) (msg : Option MessageRef) :
    (h.notice w kind body msg).intakes = h.intakes := rfl
@[simp] theorem notice_remembered (h : Hub) (w : Waiter) (kind : Byte) (body : List Byte) (msg : Option MessageRef) :
    (h.notice w kind body msg).remembered = h.remembered := rfl
@[simp] theorem notice_stampCounter (h : Hub) (w : Waiter) (kind : Byte) (body : List Byte) (msg : Option MessageRef) :
    (h.notice w kind body msg).stampCounter = h.stampCounter := rfl
@[simp] theorem notice_slots (h : Hub) (w : Waiter) (kind : Byte) (body : List Byte) (msg : Option MessageRef) :
    (h.notice w kind body msg).slots = h.slots := rfl
@[simp] theorem notice_waiters (h : Hub) (w : Waiter) (kind : Byte) (body : List Byte) (msg : Option MessageRef) :
    (h.notice w kind body msg).waiters = h.waiters := rfl
@[simp] theorem notice_packetMemory (h : Hub) (w : Waiter) (kind : Byte) (body : List Byte) (msg : Option MessageRef) :
    (h.notice w kind body msg).packetMemory = h.packetMemory := rfl

@[simp] theorem endSession_ready (h : Hub) (l : Link) (cause : EndCause) (tag : Byte) (held : Option Hello) :
    (h.endSession l cause tag held).ready = h.ready := rfl
@[simp] theorem endSession_speed (h : Hub) (l : Link) (cause : EndCause) (tag : Byte) (held : Option Hello) :
    (h.endSession l cause tag held).speed = h.speed := rfl
@[simp] theorem endSession_tick (h : Hub) (l : Link) (cause : EndCause) (tag : Byte) (held : Option Hello) :
    (h.endSession l cause tag held).tick = h.tick := rfl
@[simp] theorem endSession_deadlines (h : Hub) (l : Link) (cause : EndCause) (tag : Byte) (held : Option Hello) :
    (h.endSession l cause tag held).deadlines = h.deadlines := rfl
@[simp] theorem endSession_expiryIntake (h : Hub) (l : Link) (cause : EndCause) (tag : Byte) (held : Option Hello) :
    (h.endSession l cause tag held).expiryIntake = h.expiryIntake := rfl
@[simp] theorem endSession_intakes (h : Hub) (l : Link) (cause : EndCause) (tag : Byte) (held : Option Hello) :
    (h.endSession l cause tag held).intakes = h.intakes := rfl
@[simp] theorem endSession_remembered (h : Hub) (l : Link) (cause : EndCause) (tag : Byte) (held : Option Hello) :
    (h.endSession l cause tag held).remembered = h.remembered := rfl
@[simp] theorem endSession_stampCounter (h : Hub) (l : Link) (cause : EndCause) (tag : Byte) (held : Option Hello) :
    (h.endSession l cause tag held).stampCounter = h.stampCounter := rfl
@[simp] theorem endSession_slots (h : Hub) (l : Link) (cause : EndCause) (tag : Byte) (held : Option Hello) :
    (h.endSession l cause tag held).slots = h.slots := rfl
@[simp] theorem endSession_waiters (h : Hub) (l : Link) (cause : EndCause) (tag : Byte) (held : Option Hello) :
    (h.endSession l cause tag held).waiters = h.waiters := rfl
@[simp] theorem endSession_packetMemory (h : Hub) (l : Link) (cause : EndCause) (tag : Byte) (held : Option Hello) :
    (h.endSession l cause tag held).packetMemory = h.packetMemory := rfl

@[simp] theorem setIntake_ready (h : Hub) (l : Link) (items : List Item) : (h.setIntake l items).ready = h.ready := rfl
@[simp] theorem setIntake_speed (h : Hub) (l : Link) (items : List Item) : (h.setIntake l items).speed = h.speed := rfl
@[simp] theorem setIntake_tick (h : Hub) (l : Link) (items : List Item) : (h.setIntake l items).tick = h.tick := rfl
@[simp] theorem setIntake_deadlines (h : Hub) (l : Link) (items : List Item) :
    (h.setIntake l items).deadlines = h.deadlines := rfl
@[simp] theorem setIntake_expiryIntake (h : Hub) (l : Link) (items : List Item) :
    (h.setIntake l items).expiryIntake = h.expiryIntake := rfl
@[simp] theorem setIntake_remembered (h : Hub) (l : Link) (items : List Item) :
    (h.setIntake l items).remembered = h.remembered := rfl
@[simp] theorem setIntake_stampCounter (h : Hub) (l : Link) (items : List Item) :
    (h.setIntake l items).stampCounter = h.stampCounter := rfl
@[simp] theorem setIntake_slots (h : Hub) (l : Link) (items : List Item) : (h.setIntake l items).slots = h.slots := rfl
@[simp] theorem setIntake_waiters (h : Hub) (l : Link) (items : List Item) :
    (h.setIntake l items).waiters = h.waiters := rfl
@[simp] theorem setIntake_packetMemory (h : Hub) (l : Link) (items : List Item) :
    (h.setIntake l items).packetMemory = h.packetMemory := rfl
@[simp] theorem setIntake_links (h : Hub) (l : Link) (items : List Item) : (h.setIntake l items).links = h.links := rfl

@[simp] theorem appendIntake_ready (h : Hub) (l : Link) (items : List Item) :
    (h.appendIntake l items).ready = h.ready := rfl
@[simp] theorem appendIntake_speed (h : Hub) (l : Link) (items : List Item) :
    (h.appendIntake l items).speed = h.speed := rfl
@[simp] theorem appendIntake_tick (h : Hub) (l : Link) (items : List Item) :
    (h.appendIntake l items).tick = h.tick := rfl
@[simp] theorem appendIntake_deadlines (h : Hub) (l : Link) (items : List Item) :
    (h.appendIntake l items).deadlines = h.deadlines := rfl
@[simp] theorem appendIntake_expiryIntake (h : Hub) (l : Link) (items : List Item) :
    (h.appendIntake l items).expiryIntake = h.expiryIntake := rfl
@[simp] theorem appendIntake_remembered (h : Hub) (l : Link) (items : List Item) :
    (h.appendIntake l items).remembered = h.remembered := rfl
@[simp] theorem appendIntake_stampCounter (h : Hub) (l : Link) (items : List Item) :
    (h.appendIntake l items).stampCounter = h.stampCounter := rfl
@[simp] theorem appendIntake_slots (h : Hub) (l : Link) (items : List Item) :
    (h.appendIntake l items).slots = h.slots := rfl
@[simp] theorem appendIntake_waiters (h : Hub) (l : Link) (items : List Item) :
    (h.appendIntake l items).waiters = h.waiters := rfl
@[simp] theorem appendIntake_packetMemory (h : Hub) (l : Link) (items : List Item) :
    (h.appendIntake l items).packetMemory = h.packetMemory := rfl
@[simp] theorem appendIntake_links (h : Hub) (l : Link) (items : List Item) :
    (h.appendIntake l items).links = h.links := rfl

@[simp] theorem takeFrom_ready (h : Hub) (l : Link) : (h.takeFrom l).ready = h.ready := rfl
@[simp] theorem takeFrom_speed (h : Hub) (l : Link) : (h.takeFrom l).speed = h.speed := rfl
@[simp] theorem takeFrom_tick (h : Hub) (l : Link) : (h.takeFrom l).tick = h.tick := rfl
@[simp] theorem takeFrom_deadlines (h : Hub) (l : Link) : (h.takeFrom l).deadlines = h.deadlines := rfl
@[simp] theorem takeFrom_expiryIntake (h : Hub) (l : Link) : (h.takeFrom l).expiryIntake = h.expiryIntake := rfl
@[simp] theorem takeFrom_stampCounter (h : Hub) (l : Link) : (h.takeFrom l).stampCounter = h.stampCounter := rfl
@[simp] theorem takeFrom_slots (h : Hub) (l : Link) : (h.takeFrom l).slots = h.slots := rfl
@[simp] theorem takeFrom_waiters (h : Hub) (l : Link) : (h.takeFrom l).waiters = h.waiters := rfl
@[simp] theorem takeFrom_packetMemory (h : Hub) (l : Link) : (h.takeFrom l).packetMemory = h.packetMemory := rfl
@[simp] theorem takeFrom_links (h : Hub) (l : Link) : (h.takeFrom l).links = h.links := rfl

@[simp] theorem takeExpiry_ready (h : Hub) : (h.takeExpiry).ready = h.ready := rfl
@[simp] theorem takeExpiry_speed (h : Hub) : (h.takeExpiry).speed = h.speed := rfl
@[simp] theorem takeExpiry_tick (h : Hub) : (h.takeExpiry).tick = h.tick := rfl
@[simp] theorem takeExpiry_deadlines (h : Hub) : (h.takeExpiry).deadlines = h.deadlines := rfl
@[simp] theorem takeExpiry_intakes (h : Hub) : (h.takeExpiry).intakes = h.intakes := rfl
@[simp] theorem takeExpiry_stampCounter (h : Hub) : (h.takeExpiry).stampCounter = h.stampCounter := rfl
@[simp] theorem takeExpiry_slots (h : Hub) : (h.takeExpiry).slots = h.slots := rfl
@[simp] theorem takeExpiry_waiters (h : Hub) : (h.takeExpiry).waiters = h.waiters := rfl
@[simp] theorem takeExpiry_packetMemory (h : Hub) : (h.takeExpiry).packetMemory = h.packetMemory := rfl
@[simp] theorem takeExpiry_links (h : Hub) : (h.takeExpiry).links = h.links := rfl

@[simp] theorem setSlot_ready (h : Hub) (i : Fin 48) (sl : Slot) : (h.setSlot i sl).ready = h.ready := rfl
@[simp] theorem setSlot_speed (h : Hub) (i : Fin 48) (sl : Slot) : (h.setSlot i sl).speed = h.speed := rfl
@[simp] theorem setSlot_tick (h : Hub) (i : Fin 48) (sl : Slot) : (h.setSlot i sl).tick = h.tick := rfl
@[simp] theorem setSlot_deadlines (h : Hub) (i : Fin 48) (sl : Slot) : (h.setSlot i sl).deadlines = h.deadlines := rfl
@[simp] theorem setSlot_expiryIntake (h : Hub) (i : Fin 48) (sl : Slot) :
    (h.setSlot i sl).expiryIntake = h.expiryIntake := rfl
@[simp] theorem setSlot_intakes (h : Hub) (i : Fin 48) (sl : Slot) : (h.setSlot i sl).intakes = h.intakes := rfl
@[simp] theorem setSlot_remembered (h : Hub) (i : Fin 48) (sl : Slot) :
    (h.setSlot i sl).remembered = h.remembered := rfl
@[simp] theorem setSlot_stampCounter (h : Hub) (i : Fin 48) (sl : Slot) :
    (h.setSlot i sl).stampCounter = h.stampCounter := rfl
@[simp] theorem setSlot_waiters (h : Hub) (i : Fin 48) (sl : Slot) : (h.setSlot i sl).waiters = h.waiters := rfl
@[simp] theorem setSlot_packetMemory (h : Hub) (i : Fin 48) (sl : Slot) :
    (h.setSlot i sl).packetMemory = h.packetMemory := rfl
@[simp] theorem setSlot_links (h : Hub) (i : Fin 48) (sl : Slot) : (h.setSlot i sl).links = h.links := rfl

@[simp] theorem modObj_ready (h : Hub) (i : Fin 48) (f : Obj → Obj) : (h.modObj i f).ready = h.ready := rfl
@[simp] theorem modObj_speed (h : Hub) (i : Fin 48) (f : Obj → Obj) : (h.modObj i f).speed = h.speed := rfl
@[simp] theorem modObj_tick (h : Hub) (i : Fin 48) (f : Obj → Obj) : (h.modObj i f).tick = h.tick := rfl
@[simp] theorem modObj_deadlines (h : Hub) (i : Fin 48) (f : Obj → Obj) : (h.modObj i f).deadlines = h.deadlines := rfl
@[simp] theorem modObj_expiryIntake (h : Hub) (i : Fin 48) (f : Obj → Obj) :
    (h.modObj i f).expiryIntake = h.expiryIntake := rfl
@[simp] theorem modObj_intakes (h : Hub) (i : Fin 48) (f : Obj → Obj) : (h.modObj i f).intakes = h.intakes := rfl
@[simp] theorem modObj_remembered (h : Hub) (i : Fin 48) (f : Obj → Obj) :
    (h.modObj i f).remembered = h.remembered := rfl
@[simp] theorem modObj_stampCounter (h : Hub) (i : Fin 48) (f : Obj → Obj) :
    (h.modObj i f).stampCounter = h.stampCounter := rfl
@[simp] theorem modObj_waiters (h : Hub) (i : Fin 48) (f : Obj → Obj) : (h.modObj i f).waiters = h.waiters := rfl
@[simp] theorem modObj_packetMemory (h : Hub) (i : Fin 48) (f : Obj → Obj) :
    (h.modObj i f).packetMemory = h.packetMemory := rfl
@[simp] theorem modObj_links (h : Hub) (i : Fin 48) (f : Obj → Obj) : (h.modObj i f).links = h.links := rfl

@[simp] theorem setPart_ready (h : Hub) (i : Fin 48) (p : Part) : (h.setPart i p).ready = h.ready := rfl
@[simp] theorem setPart_speed (h : Hub) (i : Fin 48) (p : Part) : (h.setPart i p).speed = h.speed := rfl
@[simp] theorem setPart_tick (h : Hub) (i : Fin 48) (p : Part) : (h.setPart i p).tick = h.tick := rfl
@[simp] theorem setPart_deadlines (h : Hub) (i : Fin 48) (p : Part) : (h.setPart i p).deadlines = h.deadlines := rfl
@[simp] theorem setPart_expiryIntake (h : Hub) (i : Fin 48) (p : Part) :
    (h.setPart i p).expiryIntake = h.expiryIntake := rfl
@[simp] theorem setPart_intakes (h : Hub) (i : Fin 48) (p : Part) : (h.setPart i p).intakes = h.intakes := rfl
@[simp] theorem setPart_remembered (h : Hub) (i : Fin 48) (p : Part) : (h.setPart i p).remembered = h.remembered := rfl
@[simp] theorem setPart_stampCounter (h : Hub) (i : Fin 48) (p : Part) :
    (h.setPart i p).stampCounter = h.stampCounter := rfl
@[simp] theorem setPart_waiters (h : Hub) (i : Fin 48) (p : Part) : (h.setPart i p).waiters = h.waiters := rfl
@[simp] theorem setPart_packetMemory (h : Hub) (i : Fin 48) (p : Part) :
    (h.setPart i p).packetMemory = h.packetMemory := rfl
@[simp] theorem setPart_links (h : Hub) (i : Fin 48) (p : Part) : (h.setPart i p).links = h.links := rfl

@[simp] theorem freeSlotAt_ready (h : Hub) (i : Fin 48) : (h.freeSlotAt i).ready = h.ready := rfl
@[simp] theorem freeSlotAt_speed (h : Hub) (i : Fin 48) : (h.freeSlotAt i).speed = h.speed := rfl
@[simp] theorem freeSlotAt_tick (h : Hub) (i : Fin 48) : (h.freeSlotAt i).tick = h.tick := rfl
@[simp] theorem freeSlotAt_deadlines (h : Hub) (i : Fin 48) : (h.freeSlotAt i).deadlines = h.deadlines := rfl
@[simp] theorem freeSlotAt_expiryIntake (h : Hub) (i : Fin 48) : (h.freeSlotAt i).expiryIntake = h.expiryIntake := rfl
@[simp] theorem freeSlotAt_intakes (h : Hub) (i : Fin 48) : (h.freeSlotAt i).intakes = h.intakes := rfl
@[simp] theorem freeSlotAt_remembered (h : Hub) (i : Fin 48) : (h.freeSlotAt i).remembered = h.remembered := rfl
@[simp] theorem freeSlotAt_stampCounter (h : Hub) (i : Fin 48) : (h.freeSlotAt i).stampCounter = h.stampCounter := rfl
@[simp] theorem freeSlotAt_waiters (h : Hub) (i : Fin 48) : (h.freeSlotAt i).waiters = h.waiters := rfl
@[simp] theorem freeSlotAt_packetMemory (h : Hub) (i : Fin 48) : (h.freeSlotAt i).packetMemory = h.packetMemory := rfl
@[simp] theorem freeSlotAt_links (h : Hub) (i : Fin 48) : (h.freeSlotAt i).links = h.links := rfl

@[simp] theorem setWaitListAt_ready (h : Hub) (i : Fin 48) (ws : List Stamp) :
    (h.setWaitListAt i ws).ready = h.ready := rfl
@[simp] theorem setWaitListAt_speed (h : Hub) (i : Fin 48) (ws : List Stamp) :
    (h.setWaitListAt i ws).speed = h.speed := rfl
@[simp] theorem setWaitListAt_tick (h : Hub) (i : Fin 48) (ws : List Stamp) :
    (h.setWaitListAt i ws).tick = h.tick := rfl
@[simp] theorem setWaitListAt_deadlines (h : Hub) (i : Fin 48) (ws : List Stamp) :
    (h.setWaitListAt i ws).deadlines = h.deadlines := rfl
@[simp] theorem setWaitListAt_expiryIntake (h : Hub) (i : Fin 48) (ws : List Stamp) :
    (h.setWaitListAt i ws).expiryIntake = h.expiryIntake := rfl
@[simp] theorem setWaitListAt_intakes (h : Hub) (i : Fin 48) (ws : List Stamp) :
    (h.setWaitListAt i ws).intakes = h.intakes := rfl
@[simp] theorem setWaitListAt_remembered (h : Hub) (i : Fin 48) (ws : List Stamp) :
    (h.setWaitListAt i ws).remembered = h.remembered := rfl
@[simp] theorem setWaitListAt_stampCounter (h : Hub) (i : Fin 48) (ws : List Stamp) :
    (h.setWaitListAt i ws).stampCounter = h.stampCounter := rfl
@[simp] theorem setWaitListAt_waiters (h : Hub) (i : Fin 48) (ws : List Stamp) :
    (h.setWaitListAt i ws).waiters = h.waiters := rfl
@[simp] theorem setWaitListAt_packetMemory (h : Hub) (i : Fin 48) (ws : List Stamp) :
    (h.setWaitListAt i ws).packetMemory = h.packetMemory := rfl
@[simp] theorem setWaitListAt_links (h : Hub) (i : Fin 48) (ws : List Stamp) :
    (h.setWaitListAt i ws).links = h.links := rfl

@[simp] theorem leaveWaitList_ready (h : Hub) (i : Fin 48) (st : Stamp) : (h.leaveWaitList i st).ready = h.ready := rfl
@[simp] theorem leaveWaitList_speed (h : Hub) (i : Fin 48) (st : Stamp) : (h.leaveWaitList i st).speed = h.speed := rfl
@[simp] theorem leaveWaitList_tick (h : Hub) (i : Fin 48) (st : Stamp) : (h.leaveWaitList i st).tick = h.tick := rfl
@[simp] theorem leaveWaitList_deadlines (h : Hub) (i : Fin 48) (st : Stamp) :
    (h.leaveWaitList i st).deadlines = h.deadlines := rfl
@[simp] theorem leaveWaitList_expiryIntake (h : Hub) (i : Fin 48) (st : Stamp) :
    (h.leaveWaitList i st).expiryIntake = h.expiryIntake := rfl
@[simp] theorem leaveWaitList_intakes (h : Hub) (i : Fin 48) (st : Stamp) :
    (h.leaveWaitList i st).intakes = h.intakes := rfl
@[simp] theorem leaveWaitList_remembered (h : Hub) (i : Fin 48) (st : Stamp) :
    (h.leaveWaitList i st).remembered = h.remembered := rfl
@[simp] theorem leaveWaitList_stampCounter (h : Hub) (i : Fin 48) (st : Stamp) :
    (h.leaveWaitList i st).stampCounter = h.stampCounter := rfl
@[simp] theorem leaveWaitList_waiters (h : Hub) (i : Fin 48) (st : Stamp) :
    (h.leaveWaitList i st).waiters = h.waiters := rfl
@[simp] theorem leaveWaitList_packetMemory (h : Hub) (i : Fin 48) (st : Stamp) :
    (h.leaveWaitList i st).packetMemory = h.packetMemory := rfl
@[simp] theorem leaveWaitList_links (h : Hub) (i : Fin 48) (st : Stamp) : (h.leaveWaitList i st).links = h.links := rfl

@[simp] theorem modWaiter_ready (h : Hub) (st : Stamp) (f : Waiter → Waiter) : (h.modWaiter st f).ready = h.ready := rfl
@[simp] theorem modWaiter_speed (h : Hub) (st : Stamp) (f : Waiter → Waiter) : (h.modWaiter st f).speed = h.speed := rfl
@[simp] theorem modWaiter_tick (h : Hub) (st : Stamp) (f : Waiter → Waiter) : (h.modWaiter st f).tick = h.tick := rfl
@[simp] theorem modWaiter_deadlines (h : Hub) (st : Stamp) (f : Waiter → Waiter) :
    (h.modWaiter st f).deadlines = h.deadlines := rfl
@[simp] theorem modWaiter_expiryIntake (h : Hub) (st : Stamp) (f : Waiter → Waiter) :
    (h.modWaiter st f).expiryIntake = h.expiryIntake := rfl
@[simp] theorem modWaiter_intakes (h : Hub) (st : Stamp) (f : Waiter → Waiter) :
    (h.modWaiter st f).intakes = h.intakes := rfl
@[simp] theorem modWaiter_remembered (h : Hub) (st : Stamp) (f : Waiter → Waiter) :
    (h.modWaiter st f).remembered = h.remembered := rfl
@[simp] theorem modWaiter_stampCounter (h : Hub) (st : Stamp) (f : Waiter → Waiter) :
    (h.modWaiter st f).stampCounter = h.stampCounter := rfl
@[simp] theorem modWaiter_slots (h : Hub) (st : Stamp) (f : Waiter → Waiter) : (h.modWaiter st f).slots = h.slots := rfl
@[simp] theorem modWaiter_packetMemory (h : Hub) (st : Stamp) (f : Waiter → Waiter) :
    (h.modWaiter st f).packetMemory = h.packetMemory := rfl
@[simp] theorem modWaiter_links (h : Hub) (st : Stamp) (f : Waiter → Waiter) : (h.modWaiter st f).links = h.links := rfl

@[simp] theorem freeRecord_ready (h : Hub) (st : Stamp) : (h.freeRecord st).ready = h.ready := rfl
@[simp] theorem freeRecord_speed (h : Hub) (st : Stamp) : (h.freeRecord st).speed = h.speed := rfl
@[simp] theorem freeRecord_tick (h : Hub) (st : Stamp) : (h.freeRecord st).tick = h.tick := rfl
@[simp] theorem freeRecord_deadlines (h : Hub) (st : Stamp) : (h.freeRecord st).deadlines = h.deadlines := rfl
@[simp] theorem freeRecord_expiryIntake (h : Hub) (st : Stamp) : (h.freeRecord st).expiryIntake = h.expiryIntake := rfl
@[simp] theorem freeRecord_intakes (h : Hub) (st : Stamp) : (h.freeRecord st).intakes = h.intakes := rfl
@[simp] theorem freeRecord_remembered (h : Hub) (st : Stamp) : (h.freeRecord st).remembered = h.remembered := rfl
@[simp] theorem freeRecord_stampCounter (h : Hub) (st : Stamp) : (h.freeRecord st).stampCounter = h.stampCounter := rfl
@[simp] theorem freeRecord_slots (h : Hub) (st : Stamp) : (h.freeRecord st).slots = h.slots := rfl
@[simp] theorem freeRecord_packetMemory (h : Hub) (st : Stamp) : (h.freeRecord st).packetMemory = h.packetMemory := rfl
@[simp] theorem freeRecord_links (h : Hub) (st : Stamp) : (h.freeRecord st).links = h.links := rfl

@[simp] theorem removeClaim_ready (h : Hub) (st : Stamp) : (h.removeClaim st).ready = h.ready := rfl
@[simp] theorem removeClaim_speed (h : Hub) (st : Stamp) : (h.removeClaim st).speed = h.speed := rfl
@[simp] theorem removeClaim_tick (h : Hub) (st : Stamp) : (h.removeClaim st).tick = h.tick := rfl
@[simp] theorem removeClaim_expiryIntake (h : Hub) (st : Stamp) :
    (h.removeClaim st).expiryIntake = h.expiryIntake := rfl
@[simp] theorem removeClaim_intakes (h : Hub) (st : Stamp) : (h.removeClaim st).intakes = h.intakes := rfl
@[simp] theorem removeClaim_remembered (h : Hub) (st : Stamp) : (h.removeClaim st).remembered = h.remembered := rfl
@[simp] theorem removeClaim_stampCounter (h : Hub) (st : Stamp) :
    (h.removeClaim st).stampCounter = h.stampCounter := rfl
@[simp] theorem removeClaim_slots (h : Hub) (st : Stamp) : (h.removeClaim st).slots = h.slots := rfl
@[simp] theorem removeClaim_waiters (h : Hub) (st : Stamp) : (h.removeClaim st).waiters = h.waiters := rfl
@[simp] theorem removeClaim_packetMemory (h : Hub) (st : Stamp) :
    (h.removeClaim st).packetMemory = h.packetMemory := rfl
@[simp] theorem removeClaim_links (h : Hub) (st : Stamp) : (h.removeClaim st).links = h.links := rfl

@[simp] theorem moveDue_ready (h : Hub) : (h.moveDue).ready = h.ready := rfl
@[simp] theorem moveDue_speed (h : Hub) : (h.moveDue).speed = h.speed := rfl
@[simp] theorem moveDue_tick (h : Hub) : (h.moveDue).tick = h.tick := rfl
@[simp] theorem moveDue_intakes (h : Hub) : (h.moveDue).intakes = h.intakes := rfl
@[simp] theorem moveDue_remembered (h : Hub) : (h.moveDue).remembered = h.remembered := rfl
@[simp] theorem moveDue_stampCounter (h : Hub) : (h.moveDue).stampCounter = h.stampCounter := rfl
@[simp] theorem moveDue_slots (h : Hub) : (h.moveDue).slots = h.slots := rfl
@[simp] theorem moveDue_waiters (h : Hub) : (h.moveDue).waiters = h.waiters := rfl
@[simp] theorem moveDue_packetMemory (h : Hub) : (h.moveDue).packetMemory = h.packetMemory := rfl
@[simp] theorem moveDue_links (h : Hub) : (h.moveDue).links = h.links := rfl

/-! ### Reads after writes -/

@[simp] theorem link_setLink_self (h : Hub) (l : Link) (k : LinkState) : (h.setLink l k).link l = k := by
  simp [link, setLink]

theorem link_setLink_other (h : Hub) {l m : Link} (k : LinkState) (ne : m ≠ l) : (h.setLink l k).link m = h.link m := by
  simp [link, setLink, PerLink.get_set_other _ _ ne]

@[simp] theorem setLink_setLink (h : Hub) (l : Link) (k k' : LinkState) : (h.setLink l k).setLink l k' = h.setLink l k' := by
  simp [setLink]

@[simp] theorem link_modLink_self (h : Hub) (l : Link) (f : LinkState → LinkState) :
    (h.modLink l f).link l = f (h.link l) := by simp [modLink]

theorem link_modLink_other (h : Hub) {l m : Link} (f : LinkState → LinkState) (ne : m ≠ l) :
    (h.modLink l f).link m = h.link m := h.link_setLink_other _ ne

/-- One change made at every link. -/
theorem foldl_modLink (h : Hub) (f : LinkState → LinkState) :
    Link.all.foldl (fun h l => h.modLink l f) h =
      { h with links := ⟨f h.links.a, f h.links.b, f h.links.c, f h.links.d⟩ } := rfl

theorem link_foldl_modLink (h : Hub) (f : LinkState → LinkState) (l : Link) :
    (Link.all.foldl (fun h l => h.modLink l f) h).link l = f (h.link l) := by cases l <;> rfl

@[simp] theorem modLink_modLink (h : Hub) (l : Link) (f g : LinkState → LinkState) :
    (h.modLink l f).modLink l g = h.modLink l fun k => g (f k) := by simp [modLink, setLink, link]

@[simp] theorem setLink_link (h : Hub) (l : Link) : h.setLink l (h.link l) = h := by simp [setLink, link]

@[simp] theorem intake_setIntake_self (h : Hub) (l : Link) (items : List Item) : (h.setIntake l items).intake l = items := by
  simp [intake, setIntake]

theorem intake_setIntake_other (h : Hub) {l m : Link} (items : List Item) (ne : m ≠ l) :
    (h.setIntake l items).intake m = h.intake m := by simp [intake, setIntake, PerLink.get_set_other _ _ ne]

theorem slot_setSlot (h : Hub) (i j : Fin 48) (sl : Slot) : (h.setSlot i sl).slot j = if i = j then sl else h.slot j := by
  simp only [slot, setSlot, Fin.getElem_fin]
  rw [Vector.getElem_set]
  simp [Fin.ext_iff]

@[simp] theorem slot_setSlot_self (h : Hub) (i : Fin 48) (sl : Slot) : (h.setSlot i sl).slot i = sl := by simp [slot_setSlot]

theorem slot_setSlot_other (h : Hub) {i j : Fin 48} (sl : Slot) (ne : i ≠ j) : (h.setSlot i sl).slot j = h.slot j := by
  simp [slot_setSlot, ne]

end Hub

/-! ### Updates of a link's record that leave the rest of it -/

namespace LinkState

@[simp] theorem takeSlot_asm (k : LinkState) (i : Fin 4) : (k.takeSlot i).asm = k.asm := rfl
@[simp] theorem takeSlot_buffer (k : LinkState) (i : Fin 4) : (k.takeSlot i).buffer = k.buffer := rfl
@[simp] theorem takeSlot_frameErrors (k : LinkState) (i : Fin 4) : (k.takeSlot i).frameErrors = k.frameErrors := rfl
@[simp] theorem takeSlot_loss (k : LinkState) (i : Fin 4) : (k.takeSlot i).loss = k.loss := rfl
@[simp] theorem takeSlot_session (k : LinkState) (i : Fin 4) : (k.takeSlot i).session = k.session := rfl
@[simp] theorem takeSlot_sessionNo (k : LinkState) (i : Fin 4) : (k.takeSlot i).sessionNo = k.sessionNo := rfl
@[simp] theorem takeSlot_label (k : LinkState) (i : Fin 4) : (k.takeSlot i).label = k.label := rfl
@[simp] theorem takeSlot_keepalive (k : LinkState) (i : Fin 4) : (k.takeSlot i).keepalive = k.keepalive := rfl
@[simp] theorem takeSlot_keepaliveCount (k : LinkState) (i : Fin 4) : (k.takeSlot i).keepaliveCount = k.keepaliveCount := rfl
@[simp] theorem takeSlot_heldHello (k : LinkState) (i : Fin 4) : (k.takeSlot i).heldHello = k.heldHello := rfl
@[simp] theorem takeSlot_manage (k : LinkState) (i : Fin 4) : (k.takeSlot i).manage = k.manage := rfl
@[simp] theorem takeSlot_sessionsBegun (k : LinkState) (i : Fin 4) : (k.takeSlot i).sessionsBegun = k.sessionsBegun := rfl
@[simp] theorem takeSlot_overruns (k : LinkState) (i : Fin 4) : (k.takeSlot i).overruns = k.overruns := rfl
@[simp] theorem takeSlot_txList (k : LinkState) (i : Fin 4) : (k.takeSlot i).txList = k.txList := rfl
@[simp] theorem takeSlot_tx (k : LinkState) (i : Fin 4) : (k.takeSlot i).tx = k.tx := rfl
@[simp] theorem takeSlot_teardown (k : LinkState) (i : Fin 4) : (k.takeSlot i).teardown = k.teardown := rfl
@[simp] theorem takeSlot_wire (k : LinkState) (i : Fin 4) : (k.takeSlot i).wire = k.wire := rfl

@[simp] theorem releaseSlot_asm (k : LinkState) (i : Fin 4) : (k.releaseSlot i).asm = k.asm := rfl
@[simp] theorem releaseSlot_buffer (k : LinkState) (i : Fin 4) : (k.releaseSlot i).buffer = k.buffer := rfl
@[simp] theorem releaseSlot_frameErrors (k : LinkState) (i : Fin 4) : (k.releaseSlot i).frameErrors = k.frameErrors := rfl
@[simp] theorem releaseSlot_loss (k : LinkState) (i : Fin 4) : (k.releaseSlot i).loss = k.loss := rfl
@[simp] theorem releaseSlot_session (k : LinkState) (i : Fin 4) : (k.releaseSlot i).session = k.session := rfl
@[simp] theorem releaseSlot_sessionNo (k : LinkState) (i : Fin 4) : (k.releaseSlot i).sessionNo = k.sessionNo := rfl
@[simp] theorem releaseSlot_label (k : LinkState) (i : Fin 4) : (k.releaseSlot i).label = k.label := rfl
@[simp] theorem releaseSlot_keepalive (k : LinkState) (i : Fin 4) : (k.releaseSlot i).keepalive = k.keepalive := rfl
@[simp] theorem releaseSlot_keepaliveCount (k : LinkState) (i : Fin 4) : (k.releaseSlot i).keepaliveCount = k.keepaliveCount := rfl
@[simp] theorem releaseSlot_heldHello (k : LinkState) (i : Fin 4) : (k.releaseSlot i).heldHello = k.heldHello := rfl
@[simp] theorem releaseSlot_manage (k : LinkState) (i : Fin 4) : (k.releaseSlot i).manage = k.manage := rfl
@[simp] theorem releaseSlot_sessionsBegun (k : LinkState) (i : Fin 4) : (k.releaseSlot i).sessionsBegun = k.sessionsBegun := rfl
@[simp] theorem releaseSlot_overruns (k : LinkState) (i : Fin 4) : (k.releaseSlot i).overruns = k.overruns := rfl
@[simp] theorem releaseSlot_txList (k : LinkState) (i : Fin 4) : (k.releaseSlot i).txList = k.txList := rfl
@[simp] theorem releaseSlot_tx (k : LinkState) (i : Fin 4) : (k.releaseSlot i).tx = k.tx := rfl
@[simp] theorem releaseSlot_teardown (k : LinkState) (i : Fin 4) : (k.releaseSlot i).teardown = k.teardown := rfl
@[simp] theorem releaseSlot_wire (k : LinkState) (i : Fin 4) : (k.releaseSlot i).wire = k.wire := rfl

@[simp] theorem releaseAll_asm (k : LinkState) : (k.releaseAll).asm = k.asm := rfl
@[simp] theorem releaseAll_buffer (k : LinkState) : (k.releaseAll).buffer = k.buffer := rfl
@[simp] theorem releaseAll_frameErrors (k : LinkState) : (k.releaseAll).frameErrors = k.frameErrors := rfl
@[simp] theorem releaseAll_loss (k : LinkState) : (k.releaseAll).loss = k.loss := rfl
@[simp] theorem releaseAll_session (k : LinkState) : (k.releaseAll).session = k.session := rfl
@[simp] theorem releaseAll_sessionNo (k : LinkState) : (k.releaseAll).sessionNo = k.sessionNo := rfl
@[simp] theorem releaseAll_label (k : LinkState) : (k.releaseAll).label = k.label := rfl
@[simp] theorem releaseAll_keepalive (k : LinkState) : (k.releaseAll).keepalive = k.keepalive := rfl
@[simp] theorem releaseAll_keepaliveCount (k : LinkState) : (k.releaseAll).keepaliveCount = k.keepaliveCount := rfl
@[simp] theorem releaseAll_heldHello (k : LinkState) : (k.releaseAll).heldHello = k.heldHello := rfl
@[simp] theorem releaseAll_manage (k : LinkState) : (k.releaseAll).manage = k.manage := rfl
@[simp] theorem releaseAll_sessionsBegun (k : LinkState) : (k.releaseAll).sessionsBegun = k.sessionsBegun := rfl
@[simp] theorem releaseAll_overruns (k : LinkState) : (k.releaseAll).overruns = k.overruns := rfl
@[simp] theorem releaseAll_txList (k : LinkState) : (k.releaseAll).txList = k.txList := rfl
@[simp] theorem releaseAll_tx (k : LinkState) : (k.releaseAll).tx = k.tx := rfl
@[simp] theorem releaseAll_teardown (k : LinkState) : (k.releaseAll).teardown = k.teardown := rfl
@[simp] theorem releaseAll_wire (k : LinkState) : (k.releaseAll).wire = k.wire := rfl

@[simp] theorem overrun_asm (k : LinkState) : (k.overrun).asm = k.asm := rfl
@[simp] theorem overrun_buffer (k : LinkState) : (k.overrun).buffer = k.buffer := rfl
@[simp] theorem overrun_frameErrors (k : LinkState) : (k.overrun).frameErrors = k.frameErrors := rfl
@[simp] theorem overrun_session (k : LinkState) : (k.overrun).session = k.session := rfl
@[simp] theorem overrun_sessionNo (k : LinkState) : (k.overrun).sessionNo = k.sessionNo := rfl
@[simp] theorem overrun_label (k : LinkState) : (k.overrun).label = k.label := rfl
@[simp] theorem overrun_keepalive (k : LinkState) : (k.overrun).keepalive = k.keepalive := rfl
@[simp] theorem overrun_keepaliveCount (k : LinkState) : (k.overrun).keepaliveCount = k.keepaliveCount := rfl
@[simp] theorem overrun_heldHello (k : LinkState) : (k.overrun).heldHello = k.heldHello := rfl
@[simp] theorem overrun_manage (k : LinkState) : (k.overrun).manage = k.manage := rfl
@[simp] theorem overrun_sessionsBegun (k : LinkState) : (k.overrun).sessionsBegun = k.sessionsBegun := rfl
@[simp] theorem overrun_window (k : LinkState) : (k.overrun).window = k.window := rfl
@[simp] theorem overrun_txList (k : LinkState) : (k.overrun).txList = k.txList := rfl
@[simp] theorem overrun_tx (k : LinkState) : (k.overrun).tx = k.tx := rfl
@[simp] theorem overrun_teardown (k : LinkState) : (k.overrun).teardown = k.teardown := rfl
@[simp] theorem overrun_wire (k : LinkState) : (k.overrun).wire = k.wire := rfl

@[simp] theorem beginFrame_asm (k : LinkState) (shared : Bool) : (k.beginFrame shared).asm = k.asm := by
  unfold beginFrame; split <;> rfl
@[simp] theorem beginFrame_buffer (k : LinkState) (shared : Bool) : (k.beginFrame shared).buffer = k.buffer := by
  unfold beginFrame; split <;> rfl
@[simp] theorem beginFrame_frameErrors (k : LinkState) (shared : Bool) : (k.beginFrame shared).frameErrors = k.frameErrors := by
  unfold beginFrame; split <;> rfl
@[simp] theorem beginFrame_session (k : LinkState) (shared : Bool) : (k.beginFrame shared).session = k.session := by
  unfold beginFrame; split <;> rfl
@[simp] theorem beginFrame_sessionNo (k : LinkState) (shared : Bool) : (k.beginFrame shared).sessionNo = k.sessionNo := by
  unfold beginFrame; split <;> rfl
@[simp] theorem beginFrame_label (k : LinkState) (shared : Bool) : (k.beginFrame shared).label = k.label := by
  unfold beginFrame; split <;> rfl
@[simp] theorem beginFrame_keepalive (k : LinkState) (shared : Bool) : (k.beginFrame shared).keepalive = k.keepalive := by
  unfold beginFrame; split <;> rfl
@[simp] theorem beginFrame_keepaliveCount (k : LinkState) (shared : Bool) : (k.beginFrame shared).keepaliveCount = k.keepaliveCount := by
  unfold beginFrame; split <;> rfl
@[simp] theorem beginFrame_heldHello (k : LinkState) (shared : Bool) : (k.beginFrame shared).heldHello = k.heldHello := by
  unfold beginFrame; split <;> rfl
@[simp] theorem beginFrame_manage (k : LinkState) (shared : Bool) : (k.beginFrame shared).manage = k.manage := by
  unfold beginFrame; split <;> rfl
@[simp] theorem beginFrame_sessionsBegun (k : LinkState) (shared : Bool) : (k.beginFrame shared).sessionsBegun = k.sessionsBegun := by
  unfold beginFrame; split <;> rfl
@[simp] theorem beginFrame_window (k : LinkState) (shared : Bool) : (k.beginFrame shared).window = k.window := by
  unfold beginFrame; split <;> rfl
@[simp] theorem beginFrame_overruns (k : LinkState) (shared : Bool) : (k.beginFrame shared).overruns = k.overruns := by
  unfold beginFrame; split <;> rfl
@[simp] theorem beginFrame_txList (k : LinkState) (shared : Bool) : (k.beginFrame shared).txList = k.txList := by
  unfold beginFrame; split <;> rfl
@[simp] theorem beginFrame_teardown (k : LinkState) (shared : Bool) : (k.beginFrame shared).teardown = k.teardown := by
  unfold beginFrame; split <;> rfl
@[simp] theorem beginFrame_wire (k : LinkState) (shared : Bool) : (k.beginFrame shared).wire = k.wire := by
  unfold beginFrame; split <;> rfl

@[simp] theorem enqueue_asm (k : LinkState) (shared : Bool) (item : TxItem) : (k.enqueue shared item).asm = k.asm := by
  unfold enqueue; dsimp only; split <;> simp
@[simp] theorem enqueue_buffer (k : LinkState) (shared : Bool) (item : TxItem) : (k.enqueue shared item).buffer = k.buffer := by
  unfold enqueue; dsimp only; split <;> simp
@[simp] theorem enqueue_frameErrors (k : LinkState) (shared : Bool) (item : TxItem) : (k.enqueue shared item).frameErrors = k.frameErrors := by
  unfold enqueue; dsimp only; split <;> simp
@[simp] theorem enqueue_session (k : LinkState) (shared : Bool) (item : TxItem) : (k.enqueue shared item).session = k.session := by
  unfold enqueue; dsimp only; split <;> simp
@[simp] theorem enqueue_sessionNo (k : LinkState) (shared : Bool) (item : TxItem) : (k.enqueue shared item).sessionNo = k.sessionNo := by
  unfold enqueue; dsimp only; split <;> simp
@[simp] theorem enqueue_label (k : LinkState) (shared : Bool) (item : TxItem) : (k.enqueue shared item).label = k.label := by
  unfold enqueue; dsimp only; split <;> simp
@[simp] theorem enqueue_keepalive (k : LinkState) (shared : Bool) (item : TxItem) : (k.enqueue shared item).keepalive = k.keepalive := by
  unfold enqueue; dsimp only; split <;> simp
@[simp] theorem enqueue_keepaliveCount (k : LinkState) (shared : Bool) (item : TxItem) : (k.enqueue shared item).keepaliveCount = k.keepaliveCount := by
  unfold enqueue; dsimp only; split <;> simp
@[simp] theorem enqueue_heldHello (k : LinkState) (shared : Bool) (item : TxItem) : (k.enqueue shared item).heldHello = k.heldHello := by
  unfold enqueue; dsimp only; split <;> simp
@[simp] theorem enqueue_manage (k : LinkState) (shared : Bool) (item : TxItem) : (k.enqueue shared item).manage = k.manage := by
  unfold enqueue; dsimp only; split <;> simp
@[simp] theorem enqueue_sessionsBegun (k : LinkState) (shared : Bool) (item : TxItem) : (k.enqueue shared item).sessionsBegun = k.sessionsBegun := by
  unfold enqueue; dsimp only; split <;> simp
@[simp] theorem enqueue_window (k : LinkState) (shared : Bool) (item : TxItem) : (k.enqueue shared item).window = k.window := by
  unfold enqueue; dsimp only; split <;> simp
@[simp] theorem enqueue_overruns (k : LinkState) (shared : Bool) (item : TxItem) : (k.enqueue shared item).overruns = k.overruns := by
  unfold enqueue; dsimp only; split <;> simp
@[simp] theorem enqueue_teardown (k : LinkState) (shared : Bool) (item : TxItem) : (k.enqueue shared item).teardown = k.teardown := by
  unfold enqueue; dsimp only; split <;> simp
@[simp] theorem enqueue_wire (k : LinkState) (shared : Bool) (item : TxItem) : (k.enqueue shared item).wire = k.wire := by
  unfold enqueue; dsimp only; split <;> simp

@[simp] theorem restartKeepalive_asm (k : LinkState) : (k.restartKeepalive).asm = k.asm := by
  unfold restartKeepalive; split <;> rfl
@[simp] theorem restartKeepalive_buffer (k : LinkState) : (k.restartKeepalive).buffer = k.buffer := by
  unfold restartKeepalive; split <;> rfl
@[simp] theorem restartKeepalive_frameErrors (k : LinkState) : (k.restartKeepalive).frameErrors = k.frameErrors := by
  unfold restartKeepalive; split <;> rfl
@[simp] theorem restartKeepalive_loss (k : LinkState) : (k.restartKeepalive).loss = k.loss := by
  unfold restartKeepalive; split <;> rfl
@[simp] theorem restartKeepalive_session (k : LinkState) : (k.restartKeepalive).session = k.session := by
  unfold restartKeepalive; split <;> rfl
@[simp] theorem restartKeepalive_sessionNo (k : LinkState) : (k.restartKeepalive).sessionNo = k.sessionNo := by
  unfold restartKeepalive; split <;> rfl
@[simp] theorem restartKeepalive_label (k : LinkState) : (k.restartKeepalive).label = k.label := by
  unfold restartKeepalive; split <;> rfl
@[simp] theorem restartKeepalive_keepalive (k : LinkState) : (k.restartKeepalive).keepalive = k.keepalive := by
  unfold restartKeepalive; split <;> rfl
@[simp] theorem restartKeepalive_heldHello (k : LinkState) : (k.restartKeepalive).heldHello = k.heldHello := by
  unfold restartKeepalive; split <;> rfl
@[simp] theorem restartKeepalive_manage (k : LinkState) : (k.restartKeepalive).manage = k.manage := by
  unfold restartKeepalive; split <;> rfl
@[simp] theorem restartKeepalive_sessionsBegun (k : LinkState) : (k.restartKeepalive).sessionsBegun = k.sessionsBegun := by
  unfold restartKeepalive; split <;> rfl
@[simp] theorem restartKeepalive_window (k : LinkState) : (k.restartKeepalive).window = k.window := by
  unfold restartKeepalive; split <;> rfl
@[simp] theorem restartKeepalive_overruns (k : LinkState) : (k.restartKeepalive).overruns = k.overruns := by
  unfold restartKeepalive; split <;> rfl
@[simp] theorem restartKeepalive_txList (k : LinkState) : (k.restartKeepalive).txList = k.txList := by
  unfold restartKeepalive; split <;> rfl
@[simp] theorem restartKeepalive_tx (k : LinkState) : (k.restartKeepalive).tx = k.tx := by
  unfold restartKeepalive; split <;> rfl
@[simp] theorem restartKeepalive_teardown (k : LinkState) : (k.restartKeepalive).teardown = k.teardown := by
  unfold restartKeepalive; split <;> rfl
@[simp] theorem restartKeepalive_wire (k : LinkState) : (k.restartKeepalive).wire = k.wire := by
  unfold restartKeepalive; split <;> rfl

/-! What follows a closing delimiter, the end of a frame at a session end, and a teardown. -/

@[simp] theorem afterDelimiter_asm (k : LinkState) : k.afterDelimiter.asm = k.asm := by
  unfold afterDelimiter; split <;> simp
@[simp] theorem afterDelimiter_buffer (k : LinkState) : k.afterDelimiter.buffer = k.buffer := by
  unfold afterDelimiter; split <;> simp
@[simp] theorem afterDelimiter_frameErrors (k : LinkState) : k.afterDelimiter.frameErrors = k.frameErrors := by
  unfold afterDelimiter; split <;> simp
@[simp] theorem afterDelimiter_session (k : LinkState) : k.afterDelimiter.session = k.session := by
  unfold afterDelimiter; split <;> simp
@[simp] theorem afterDelimiter_sessionNo (k : LinkState) : k.afterDelimiter.sessionNo = k.sessionNo := by
  unfold afterDelimiter; split <;> simp
@[simp] theorem afterDelimiter_label (k : LinkState) : k.afterDelimiter.label = k.label := by
  unfold afterDelimiter; split <;> simp
@[simp] theorem afterDelimiter_keepalive (k : LinkState) : k.afterDelimiter.keepalive = k.keepalive := by
  unfold afterDelimiter; split <;> simp
@[simp] theorem afterDelimiter_keepaliveCount (k : LinkState) : k.afterDelimiter.keepaliveCount = k.keepaliveCount := by
  unfold afterDelimiter; split <;> simp
@[simp] theorem afterDelimiter_heldHello (k : LinkState) : k.afterDelimiter.heldHello = k.heldHello := by
  unfold afterDelimiter; split <;> simp
@[simp] theorem afterDelimiter_manage (k : LinkState) : k.afterDelimiter.manage = k.manage := by
  unfold afterDelimiter; split <;> simp
@[simp] theorem afterDelimiter_sessionsBegun (k : LinkState) : k.afterDelimiter.sessionsBegun = k.sessionsBegun := by
  unfold afterDelimiter; split <;> simp
@[simp] theorem afterDelimiter_overruns (k : LinkState) : k.afterDelimiter.overruns = k.overruns := by
  unfold afterDelimiter; split <;> simp
@[simp] theorem afterDelimiter_window (k : LinkState) : k.afterDelimiter.window = k.window := by
  unfold afterDelimiter; split <;> simp
@[simp] theorem afterDelimiter_txList (k : LinkState) : k.afterDelimiter.txList = k.txList := by
  unfold afterDelimiter; split <;> simp
@[simp] theorem afterDelimiter_wire (k : LinkState) : k.afterDelimiter.wire = k.wire := by
  unfold afterDelimiter; split <;> simp

@[simp] theorem stopFrame_asm (k : LinkState) : k.stopFrame.1.asm = k.asm := by
  unfold stopFrame; repeat' split
  all_goals rfl
@[simp] theorem stopFrame_buffer (k : LinkState) : k.stopFrame.1.buffer = k.buffer := by
  unfold stopFrame; repeat' split
  all_goals rfl
@[simp] theorem stopFrame_frameErrors (k : LinkState) : k.stopFrame.1.frameErrors = k.frameErrors := by
  unfold stopFrame; repeat' split
  all_goals rfl
@[simp] theorem stopFrame_session (k : LinkState) : k.stopFrame.1.session = k.session := by
  unfold stopFrame; repeat' split
  all_goals rfl
@[simp] theorem stopFrame_sessionNo (k : LinkState) : k.stopFrame.1.sessionNo = k.sessionNo := by
  unfold stopFrame; repeat' split
  all_goals rfl
@[simp] theorem stopFrame_label (k : LinkState) : k.stopFrame.1.label = k.label := by
  unfold stopFrame; repeat' split
  all_goals rfl
@[simp] theorem stopFrame_keepalive (k : LinkState) : k.stopFrame.1.keepalive = k.keepalive := by
  unfold stopFrame; repeat' split
  all_goals rfl
@[simp] theorem stopFrame_keepaliveCount (k : LinkState) : k.stopFrame.1.keepaliveCount = k.keepaliveCount := by
  unfold stopFrame; repeat' split
  all_goals rfl
@[simp] theorem stopFrame_heldHello (k : LinkState) : k.stopFrame.1.heldHello = k.heldHello := by
  unfold stopFrame; repeat' split
  all_goals rfl
@[simp] theorem stopFrame_manage (k : LinkState) : k.stopFrame.1.manage = k.manage := by
  unfold stopFrame; repeat' split
  all_goals rfl
@[simp] theorem stopFrame_sessionsBegun (k : LinkState) : k.stopFrame.1.sessionsBegun = k.sessionsBegun := by
  unfold stopFrame; repeat' split
  all_goals rfl
@[simp] theorem stopFrame_overruns (k : LinkState) : k.stopFrame.1.overruns = k.overruns := by
  unfold stopFrame; repeat' split
  all_goals rfl
@[simp] theorem stopFrame_window (k : LinkState) : k.stopFrame.1.window = k.window := by
  unfold stopFrame; repeat' split
  all_goals rfl
@[simp] theorem stopFrame_teardown (k : LinkState) : k.stopFrame.1.teardown = k.teardown := by
  unfold stopFrame; repeat' split
  all_goals rfl
theorem stopFrame_tx {k : LinkState} (sends : k.txList ≠ []) : k.stopFrame.1.tx = none := by
  rcases tx : k.tx with _ | x
  · simp [stopFrame, tx]
  · rcases list : k.txList with _ | ⟨item, more⟩
    · exact absurd list sends
    · unfold stopFrame
      rw [tx, list]
      dsimp only
      split <;> rfl

@[simp] theorem takeDown_asm (k : LinkState) (t : Teardown) : (k.takeDown t).1.asm = k.asm := by
  unfold takeDown; dsimp only; split <;> simp
@[simp] theorem takeDown_buffer (k : LinkState) (t : Teardown) : (k.takeDown t).1.buffer = k.buffer := by
  unfold takeDown; dsimp only; split <;> simp
@[simp] theorem takeDown_frameErrors (k : LinkState) (t : Teardown) : (k.takeDown t).1.frameErrors = k.frameErrors := by
  unfold takeDown; dsimp only; split <;> simp
@[simp] theorem takeDown_session (k : LinkState) (t : Teardown) : (k.takeDown t).1.session = k.session := by
  unfold takeDown; dsimp only; split <;> simp
@[simp] theorem takeDown_sessionNo (k : LinkState) (t : Teardown) : (k.takeDown t).1.sessionNo = k.sessionNo := by
  unfold takeDown; dsimp only; split <;> simp
@[simp] theorem takeDown_label (k : LinkState) (t : Teardown) : (k.takeDown t).1.label = k.label := by
  unfold takeDown; dsimp only; split <;> simp
@[simp] theorem takeDown_keepalive (k : LinkState) (t : Teardown) : (k.takeDown t).1.keepalive = k.keepalive := by
  unfold takeDown; dsimp only; split <;> simp
@[simp] theorem takeDown_keepaliveCount (k : LinkState) (t : Teardown) : (k.takeDown t).1.keepaliveCount = k.keepaliveCount := by
  unfold takeDown; dsimp only; split <;> simp
@[simp] theorem takeDown_heldHello (k : LinkState) (t : Teardown) : (k.takeDown t).1.heldHello = k.heldHello := by
  unfold takeDown; dsimp only; split <;> simp
@[simp] theorem takeDown_manage (k : LinkState) (t : Teardown) : (k.takeDown t).1.manage = k.manage := by
  unfold takeDown; dsimp only; split <;> simp
@[simp] theorem takeDown_sessionsBegun (k : LinkState) (t : Teardown) : (k.takeDown t).1.sessionsBegun = k.sessionsBegun := by
  unfold takeDown; dsimp only; split <;> simp
@[simp] theorem takeDown_overruns (k : LinkState) (t : Teardown) : (k.takeDown t).1.overruns = k.overruns := by
  unfold takeDown; dsimp only; split <;> simp
@[simp] theorem takeDown_window (k : LinkState) (t : Teardown) : (k.takeDown t).1.window = Vector.replicate 4 none := by
  unfold takeDown; dsimp only; split <;> simp [releaseAll]
@[simp] theorem takeDown_teardown (k : LinkState) (t : Teardown) : (k.takeDown t).1.teardown = none := by
  unfold takeDown; dsimp only; split <;> simp
@[simp] theorem takeDown_txList (k : LinkState) (t : Teardown) : (k.takeDown t).1.txList =
    if t.cause = .lineBreak then [] else [Hub.sessionEnded t.cause t.tag k.sessionNo] := by
  unfold takeDown; dsimp only; split <;> simp [enqueue]

end LinkState
end Sys2Proof.Machine
end

