-- ==== Sys2Proof/Laws/Memory.lean ====
section
/-! SUPPORT. The packet memory: what a read after a write gives, and that every memory operation keeps the canonical form. -/

namespace Sys2Proof.Machine

namespace Memory

/-! ### Reading -/

theorem read_of_risesFrom {bound addr : Nat} {m : Memory} (rises : m.risesFrom bound = true) (below : addr < bound) :
    m.read addr = Config.unwrittenByte := by
  induction m generalizing bound with
  | nil => rfl
  | cons p m ih =>
    obtain ⟨x, v⟩ := p
    simp only [risesFrom, Bool.and_eq_true, decide_eq_true_eq] at rises
    have ne : x ≠ addr := by omega
    simp only [read, ne, if_false]
    exact ih rises.2 (by omega)

/-- A byte reads as it was last written, in a memory whose addresses rise. -/
theorem read_write_self {bound : Nat} {m : Memory} (rises : m.risesFrom bound = true) (addr : Nat) (v : Byte) :
    (m.write addr v).read addr = v := by
  induction m generalizing bound with
  | nil => by_cases e : v = Config.unwrittenByte <;> simp [write, read, e]
  | cons p m ih =>
    obtain ⟨x, w⟩ := p
    simp only [risesFrom, Bool.and_eq_true, decide_eq_true_eq] at rises
    simp only [write]
    split
    · rename_i lt
      split
      · rename_i e
        have ne : x ≠ addr := by omega
        simp only [read, ne, if_false, e]
        exact read_of_risesFrom rises.2 (by omega)
      · simp [read]
    · split
      · rename_i e
        subst e
        split
        · rename_i e; rw [e]; exact read_of_risesFrom rises.2 (by omega)
        · simp [read]
      · rename_i ne
        have ne' : x ≠ addr := fun e => ne e.symm
        simp only [read, ne', if_false]
        exact ih rises.2

/-- Writing one byte leaves every other byte as it reads. -/
theorem read_write_other (m : Memory) {addr other : Nat} (v : Byte) (ne : other ≠ addr) :
    (m.write addr v).read other = m.read other := by
  have ne' : addr ≠ other := fun e => ne e.symm
  induction m with
  | nil => by_cases e : v = Config.unwrittenByte <;> simp [write, read, e, ne']
  | cons p m ih =>
    obtain ⟨x, w⟩ := p
    simp only [write]
    split
    · split
      · rfl
      · simp [read, ne']
    · split
      · rename_i e
        subst e
        split <;> simp [read, ne']
      · simp only [read]; split <;> simp_all

/-! ### The canonical form -/

theorem risesFrom_weaken {b b' : Nat} {m : Memory} (le : b' ≤ b) (rises : m.risesFrom b = true) :
    m.risesFrom b' = true := by
  cases m with
  | nil => rfl
  | cons p m =>
    simp only [risesFrom, Bool.and_eq_true, decide_eq_true_eq] at rises ⊢
    exact ⟨by omega, rises.2⟩

theorem write_risesFrom {b addr : Nat} {m : Memory} (v : Byte) (rises : m.risesFrom b = true) (le : b ≤ addr) :
    (m.write addr v).risesFrom b = true := by
  induction m generalizing b with
  | nil => simp only [write]; split <;> simp [risesFrom, le]
  | cons p m ih =>
    obtain ⟨x, w⟩ := p
    have rises0 := rises
    simp only [risesFrom, Bool.and_eq_true, decide_eq_true_eq] at rises
    simp only [write]
    split
    · split
      · exact rises0
      · simp only [risesFrom, Bool.and_eq_true, decide_eq_true_eq]
        exact ⟨le, by omega, rises.2⟩
    · split
      · rename_i e
        subst e
        split
        · exact risesFrom_weaken (by omega) rises.2
        · simp only [risesFrom, Bool.and_eq_true, decide_eq_true_eq]; exact ⟨le, rises.2⟩
      · simp only [risesFrom, Bool.and_eq_true, decide_eq_true_eq]
        exact ⟨rises.1, ih rises.2 (by omega)⟩

theorem write_all {addr : Nat} {m : Memory} (v : Byte) {ok : Host.Cell → Bool} (all : m.all ok = true)
    (new : v ≠ Config.unwrittenByte → ok (addr, v) = true) : (m.write addr v).all ok = true := by
  induction m with
  | nil => simp only [write]; split <;> simp_all
  | cons p m ih =>
    obtain ⟨x, w⟩ := p
    simp only [List.all_cons, Bool.and_eq_true] at all
    have h := ih all.2
    simp only [write]
    split
    · split <;> simp_all
    · split
      · split <;> simp_all
      · simp_all

/-- Writing a byte inside the packet memory keeps the canonical form. -/
theorem write_wf {m : Memory} {addr : Nat} (v : Byte) (wf : m.wf = true) (inside : addr < Config.packetBytes) :
    (m.write addr v).wf = true := by
  simp only [Memory.wf, Bool.and_eq_true] at wf ⊢
  exact ⟨write_risesFrom v wf.1 (Nat.zero_le _), write_all v wf.2 fun ne => by simp [inside, ne]⟩

/-- Two memories in canonical form that read alike everywhere are equal. -/
theorem eq_of_read {m n : Memory} (wm : m.wf = true) (wn : n.wf = true) (same : ∀ a, m.read a = n.read a) : m = n := by
  simp only [Memory.wf, Bool.and_eq_true] at wm wn
  suffices key : ∀ (m n : Memory) (b : Nat), m.risesFrom b = true → n.risesFrom b = true →
      (m.all fun p => decide (p.1 < Config.packetBytes) && decide (p.2 ≠ Config.unwrittenByte)) = true →
      (n.all fun p => decide (p.1 < Config.packetBytes) && decide (p.2 ≠ Config.unwrittenByte)) = true →
      (∀ a, m.read a = n.read a) → m = n from key m n 0 wm.1 wn.1 wm.2 wn.2 same
  clear m n wm wn same
  intro m
  induction m with
  | nil =>
    intro n b _ rn _ an same
    cases n with
    | nil => rfl
    | cons p n =>
      obtain ⟨x, v⟩ := p
      have := same x
      simp only [read, if_true] at this
      simp [← this] at an
  | cons p m ih =>
    obtain ⟨x, v⟩ := p
    intro n b rm rn am an same
    cases n with
    | nil =>
      have := same x
      simp only [read, if_true] at this
      simp [this] at am
    | cons q n =>
      obtain ⟨y, w⟩ := q
      simp only [risesFrom, Bool.and_eq_true, decide_eq_true_eq] at rm rn
      simp only [List.all_cons, Bool.and_eq_true, decide_eq_true_eq] at am an
      have xy : x = y := by
        rcases Nat.lt_trichotomy x y with lt | e | gt
        · have := same x
          have yx : y ≠ x := by omega
          simp only [read, if_true, yx, if_false] at this
          rw [read_of_risesFrom rn.2 (by omega)] at this
          exact absurd this am.1.2
        · exact e
        · have := same y
          have xy : x ≠ y := by omega
          simp only [read, if_true, xy, if_false] at this
          rw [read_of_risesFrom rm.2 (by omega)] at this
          exact absurd this.symm an.1.2
      subst xy
      have vw : v = w := by simpa [read] using same x
      subst vw
      congr 1
      refine ih n (x + 1) rm.2 rn.2 am.2 an.2 fun a => ?_
      by_cases e : x = a
      · subst e
        rw [read_of_risesFrom rm.2 (by omega), read_of_risesFrom rn.2 (by omega)]
      · simpa [read, e] using same a

end Memory

/-! ### A queue's area (R67, R68) -/

namespace Queue

theorem address_lt (q : Queue) (off : Nat) : q.address off < Config.packetBytes :=
  Nat.mod_lt _ (by decide)

theorem writeBytes_wf (q : Queue) {m : Memory} (off : Nat) (bs : List Byte) (wf : m.wf = true) :
    (q.writeBytes m off bs).wf = true := by
  induction bs generalizing m off with
  | nil => exact wf
  | cons b bs ih => exact ih _ (Memory.write_wf b wf (q.address_lt off))

/-- Writing a run of bytes leaves every byte outside their addresses as it reads. -/
theorem read_writeBytes_outside (q : Queue) (m : Memory) (off : Nat) (bs : List Byte) (a : Nat)
    (outside : ∀ k < bs.length, a ≠ q.address (off + k)) : (q.writeBytes m off bs).read a = m.read a := by
  induction bs generalizing m off with
  | nil => rfl
  | cons b bs ih =>
    have first : a ≠ q.address off := outside 0 (by simp)
    rw [writeBytes, ih]
    · exact Memory.read_write_other _ _ first
    · intro k lt
      have := outside (k + 1) (by simp [lt])
      rwa [Nat.add_assoc, Nat.add_comm 1 k]

theorem length_readBytes (q : Queue) (m : Memory) (off n : Nat) : (q.readBytes m off n).length = n := by
  induction n generalizing off with
  | zero => rfl
  | succ n ih => simp [readBytes, ih]

/-- Two memories that read alike at the addresses of a run give the same bytes there. -/
theorem readBytes_congr (q : Queue) {m m' : Memory} {off n : Nat}
    (same : ∀ k < n, m.read (q.address (off + k)) = m'.read (q.address (off + k))) :
    q.readBytes m off n = q.readBytes m' off n := by
  induction n generalizing off with
  | zero => rfl
  | succ n ih =>
    simp only [readBytes]
    congr 1
    · simpa using same 0 (by omega)
    · refine ih fun k lt => ?_
      have := same (k + 1) (by omega)
      rwa [Nat.add_comm k 1, ← Nat.add_assoc] at this

end Queue
end Sys2Proof.Machine
end

