-- ==== Sys2Proof/Laws/Timebase.lean ====
section
/-! SUPPORT. The timebase: what the moving of due entries, a lapse, the catching up and the tick events of an item can do, once each. -/

namespace Sys2Proof.Machine

namespace Hub

/-- Two hubs with the same fields are equal. -/
theorem ext_fields {h h' : Hub} (ready : h.ready = h'.ready) (speed : h.speed = h'.speed) (tick : h.tick = h'.tick)
    (deadlines : h.deadlines = h'.deadlines) (expiryIntake : h.expiryIntake = h'.expiryIntake)
    (intakes : ∀ l, h.intake l = h'.intake l) (remembered : h.remembered = h'.remembered)
    (stampCounter : h.stampCounter = h'.stampCounter) (slots : h.slots = h'.slots) (waiters : h.waiters = h'.waiters)
    (packetMemory : h.packetMemory = h'.packetMemory) (links : ∀ l, h.link l = h'.link l) : h = h' := by
  have i := PerLink.ext_get intakes
  have k := PerLink.ext_get links
  cases h; cases h'
  simp_all

/-! ### The deadline list (R97, R99) -/

/-- The entries that `dueMoved` moves, and those it leaves. -/
theorem dueMoved_spec (now : Tick) (es : List DeadlineEntry) (t : List Stamp) :
    ∃ moved, es = moved ++ (dueMoved now es t).1 ∧
      (dueMoved now es t).2 = t ++ moved.map DeadlineEntry.stamp ∧
      (∀ e ∈ moved, tickDue e.deadline now = true) ∧
      (moved ≠ [] → (dueMoved now es t).2.length ≤ 96) ∧
      ∀ e, (dueMoved now es t).1.head? = some e → tickDue e.deadline now = true → 96 ≤ (dueMoved now es t).2.length := by
  induction es generalizing t with
  | nil => exact ⟨[], by simp [dueMoved]⟩
  | cons e es ih =>
    unfold dueMoved
    by_cases c : (tickDue e.deadline now && decide (t.length < Config.expiryPlaces)) = true
    · rw [if_pos c]
      have c' : tickDue e.deadline now = true ∧ t.length < 96 := by
        rw [Bool.and_eq_true] at c; exact ⟨c.1, of_decide_eq_true c.2⟩
      obtain ⟨moved, split, intake, due, room, stop⟩ := ih (t ++ [e.stamp])
      refine ⟨e :: moved, by simp [← split], by simp [intake], ?_, ?_, stop⟩
      · simpa [c'.1] using due
      · intro _
        by_cases em : moved = []
        · simp [intake, em]; omega
        · exact room em
    · rw [if_neg c]
      refine ⟨[], by simp, by simp, by simp, by simp, ?_⟩
      intro x hx due
      simp only [List.head?_cons, Option.some.injEq] at hx
      subst hx
      refine Nat.le_of_not_lt fun lt => c ?_
      rw [Bool.and_eq_true]
      exact ⟨due, decide_eq_true lt⟩

theorem dueMoved_idem (now : Tick) (es : List DeadlineEntry) (t : List Stamp) :
    dueMoved now (dueMoved now es t).1 (dueMoved now es t).2 = dueMoved now es t := by
  induction es generalizing t with
  | nil => rfl
  | cons e es ih =>
    by_cases c : (tickDue e.deadline now && decide (t.length < Config.expiryPlaces)) = true
    · have step : dueMoved now (e :: es) t = dueMoved now es (t ++ [e.stamp]) := by rw [dueMoved, if_pos c]
      rw [step]; exact ih _
    · have stop : dueMoved now (e :: es) t = (e :: es, t) := by rw [dueMoved, if_neg c]
      rw [stop]; exact stop

theorem moveDue_dueMovedTo (h : Hub) : h.DueMovedTo h.moveDue := dueMoved_spec h.tick h.deadlines h.expiryIntake

theorem moveDue_moveDue (h : Hub) : h.moveDue.moveDue = h.moveDue := by
  have idem := dueMoved_idem h.tick h.deadlines h.expiryIntake
  simp only [moveDue, idem]

/-- The place of a new deadline entry (R97). -/
theorem insertDeadline_spec (e : DeadlineEntry) (es : List DeadlineEntry) :
    ∃ earlier later, es = earlier ++ later ∧ insertDeadline e es = earlier ++ e :: later ∧
      (∀ x ∈ earlier, tickEarlier e.deadline x.deadline = false) ∧
      ∀ x, later.head? = some x → tickEarlier e.deadline x.deadline = true := by
  induction es with
  | nil => exact ⟨[], [], by simp [insertDeadline]⟩
  | cons x xs ih =>
    by_cases c : tickEarlier e.deadline x.deadline = true
    · exact ⟨[], x :: xs, by simp [insertDeadline, c]⟩
    · obtain ⟨earlier, later, split, ins, before, after⟩ := ih
      refine ⟨x :: earlier, later, by simp [split], by simp [insertDeadline, c, ins], ?_, after⟩
      intro y hy
      rcases List.mem_cons.1 hy with rfl | hy
      · simpa using c
      · exact before y hy

/-! ### Lapse and catching up (R93, R151) -/

theorem lapse_of_lapsed {h : Hub} {l : Link} (lapsed : h.lapsed l = true) :
    h.lapse l = h.setLink l
      { h.link l with session := .ending, keepaliveCount := none, heldHello := none, teardown := some ⟨.keepalive, 0, false⟩ } := by
  have active : (h.link l).session = .active := by
    simp only [Hub.lapsed, Bool.and_eq_true, decide_eq_true_eq] at lapsed; exact lapsed.1
  simp [lapse, lapsed, endSession, modLink, active]

theorem lapse_of_not {h : Hub} {l : Link} (not : h.lapsed l = false) : h.lapse l = h := by simp [lapse, not]

/-- A lapse changes the record of its own link alone. -/
theorem lapse_frame (h : Hub) (l : Link) : h.lapse l = { h with links := (h.lapse l).links } := by
  unfold lapse; split <;> rfl

theorem link_lapse_other (h : Hub) {l m : Link} (ne : m ≠ l) : (h.lapse l).link m = h.link m := by
  unfold lapse
  split
  · exact h.link_modLink_other _ ne
  · rfl

/-- What a lapse leaves of a link's record. -/
def lapsedLink (k : LinkState) : LinkState :=
  if k.session = .active ∧ k.keepaliveCount = some 0 then
    { k with session := .ending, keepaliveCount := none, heldHello := none, teardown := some ⟨.keepalive, 0, false⟩ }
  else k

theorem link_lapse_self (h : Hub) (l : Link) : (h.lapse l).link l = lapsedLink (h.link l) := by
  by_cases c : h.lapsed l = true
  · rw [lapse_of_lapsed c, link_setLink_self, lapsedLink]
    simp only [lapsed, Bool.and_eq_true, decide_eq_true_eq] at c
    simp [c]
  · rw [lapse_of_not (by simpa using c), lapsedLink]
    simp only [lapsed, Bool.and_eq_true, decide_eq_true_eq] at c
    simp [c]

theorem catchUp_frame (h : Hub) :
    h.catchUp = { h with deadlines := h.moveDue.deadlines, expiryIntake := h.moveDue.expiryIntake, links := h.catchUp.links } := by
  simp only [catchUp, Link.all, List.foldl]
  rw [lapse_frame, lapse_frame (lapse _ .b), lapse_frame (lapse _ .a), lapse_frame (h.moveDue)]
  rfl

theorem link_catchUp (h : Hub) (l : Link) : h.catchUp.link l = lapsedLink (h.link l) := by
  simp only [catchUp, Link.all, List.foldl]
  have m : h.moveDue.link l = h.link l := rfl
  cases l <;>
    simp [link_lapse_self, link_lapse_other, m]

@[simp] theorem catchUp_tick (h : Hub) : h.catchUp.tick = h.tick := by rw [catchUp_frame]
@[simp] theorem catchUp_ready (h : Hub) : h.catchUp.ready = h.ready := by rw [catchUp_frame]
@[simp] theorem catchUp_speed (h : Hub) : h.catchUp.speed = h.speed := by rw [catchUp_frame]
@[simp] theorem catchUp_intakes (h : Hub) : h.catchUp.intakes = h.intakes := by rw [catchUp_frame]
@[simp] theorem catchUp_remembered (h : Hub) : h.catchUp.remembered = h.remembered := by rw [catchUp_frame]
@[simp] theorem catchUp_stampCounter (h : Hub) : h.catchUp.stampCounter = h.stampCounter := by rw [catchUp_frame]
@[simp] theorem catchUp_slots (h : Hub) : h.catchUp.slots = h.slots := by rw [catchUp_frame]
@[simp] theorem catchUp_waiters (h : Hub) : h.catchUp.waiters = h.waiters := by rw [catchUp_frame]
@[simp] theorem catchUp_packetMemory (h : Hub) : h.catchUp.packetMemory = h.packetMemory := by rw [catchUp_frame]
@[simp] theorem catchUp_deadlines (h : Hub) : h.catchUp.deadlines = h.moveDue.deadlines := by rw [catchUp_frame]
@[simp] theorem catchUp_expiryIntake (h : Hub) : h.catchUp.expiryIntake = h.moveDue.expiryIntake := by rw [catchUp_frame]

theorem lapsedLink_idem (k : LinkState) : lapsedLink (lapsedLink k) = lapsedLink k := by
  unfold lapsedLink; split <;> simp_all

theorem catchUp_catchUp (h : Hub) : h.catchUp.catchUp = h.catchUp := by
  have due : h.catchUp.moveDue.deadlines = h.moveDue.deadlines ∧ h.catchUp.moveDue.expiryIntake = h.moveDue.expiryIntake := by
    have idem := dueMoved_idem h.tick h.deadlines h.expiryIntake
    have d : h.catchUp.deadlines = (dueMoved h.tick h.deadlines h.expiryIntake).1 := catchUp_deadlines h
    have e : h.catchUp.expiryIntake = (dueMoved h.tick h.deadlines h.expiryIntake).2 := catchUp_expiryIntake h
    constructor
    · change (dueMoved h.catchUp.tick h.catchUp.deadlines h.catchUp.expiryIntake).1 = _
      rw [catchUp_tick, d, e, idem]; rfl
    · change (dueMoved h.catchUp.tick h.catchUp.deadlines h.catchUp.expiryIntake).2 = _
      rw [catchUp_tick, d, e, idem]; rfl
  apply ext_fields <;> first
    | (intro l; simp only [intake]; rw [catchUp_intakes])
    | (intro l; rw [link_catchUp, link_catchUp, lapsedLink_idem])
    | simp [due]

theorem slot_catchUp (h : Hub) (i : Fin 48) : h.catchUp.slot i = h.slot i := by simp only [slot, catchUp_slots]

/-! ### Tick events within an engine item (R93, R97) -/

/-- What a tick event can change. -/
theorem tickEvent_frame (h : Hub) : h.tickEvent = { h with tick := h.tick + 1, ready := true, links := h.tickEvent.links } := rfl

/-- What a number of whole tick events can change. -/
theorem tickEvents_frame (n : Nat) (h : Hub) :
    h.tickEvents n =
      { h with ready := (h.tickEvents n).ready, tick := (h.tickEvents n).tick, deadlines := (h.tickEvents n).deadlines,
               expiryIntake := (h.tickEvents n).expiryIntake, links := (h.tickEvents n).links } := by
  induction n generalizing h with
  | zero => rfl
  | succ n ih =>
    rw [tickEvents, ih, catchUp_frame h.tickEvent, tickEvent_frame h]

@[simp] theorem tickEvents_speed (n : Nat) (h : Hub) : (h.tickEvents n).speed = h.speed := by rw [tickEvents_frame]
@[simp] theorem tickEvents_intakes (n : Nat) (h : Hub) : (h.tickEvents n).intakes = h.intakes := by rw [tickEvents_frame]
@[simp] theorem tickEvents_remembered (n : Nat) (h : Hub) : (h.tickEvents n).remembered = h.remembered := by
  rw [tickEvents_frame]
@[simp] theorem tickEvents_stampCounter (n : Nat) (h : Hub) : (h.tickEvents n).stampCounter = h.stampCounter := by
  rw [tickEvents_frame]
@[simp] theorem tickEvents_slots (n : Nat) (h : Hub) : (h.tickEvents n).slots = h.slots := by rw [tickEvents_frame]
@[simp] theorem tickEvents_waiters (n : Nat) (h : Hub) : (h.tickEvents n).waiters = h.waiters := by rw [tickEvents_frame]
@[simp] theorem tickEvents_packetMemory (n : Nat) (h : Hub) : (h.tickEvents n).packetMemory = h.packetMemory := by
  rw [tickEvents_frame]

/-- The counter advances by one for each tick event. -/
@[simp] theorem tickEvents_tick (n : Nat) (h : Hub) : (h.tickEvents n).tick = h.tick + BitVec.ofNat 32 n := by
  induction n generalizing h with
  | zero => simp [tickEvents]
  | succ n ih =>
    rw [tickEvents, ih, catchUp_tick, tickEvent_frame]
    simp only [BitVec.ofNat_add, BitVec.add_assoc]
    congr 1
    exact BitVec.add_comm _ _

/-- A tick event looks at nothing of the engine's records. -/
theorem catchUp_engine (h : Hub) (counter : Stamp) (slots : Vector Slot 48) (waiters : List Waiter) :
    ({ h with stampCounter := counter, slots := slots, waiters := waiters } : Hub).catchUp =
      { h.catchUp with stampCounter := counter, slots := slots, waiters := waiters } := by
  have lapse (h : Hub) (l : Link) : ({ h with stampCounter := counter, slots := slots, waiters := waiters } : Hub).lapse l =
      { h.lapse l with stampCounter := counter, slots := slots, waiters := waiters } := by
    have same : ({ h with stampCounter := counter, slots := slots, waiters := waiters } : Hub).lapsed l = h.lapsed l := rfl
    rcases c : h.lapsed l
    · rw [lapse_of_not c, lapse_of_not (same.trans c)]
    · rw [lapse_of_lapsed c, lapse_of_lapsed (same.trans c)]; rfl
  simp only [catchUp, Link.all, List.foldl]
  rw [← lapse, ← lapse, ← lapse, ← lapse]
  rfl

/-- So do a number of them. -/
theorem tickEvents_engine (n : Nat) (h : Hub) (counter : Stamp) (slots : Vector Slot 48) (waiters : List Waiter) :
    ({ h with stampCounter := counter, slots := slots, waiters := waiters } : Hub).tickEvents n =
      { h.tickEvents n with stampCounter := counter, slots := slots, waiters := waiters } := by
  induction n generalizing h with
  | zero => rfl
  | succ n ih =>
    have event : ({ h with stampCounter := counter, slots := slots, waiters := waiters } : Hub).tickEvent =
        { h.tickEvent with stampCounter := counter, slots := slots, waiters := waiters } := rfl
    rw [tickEvents, event, catchUp_engine, ih, tickEvents]

/-- TICK_EVENT, once its outstanding work is done, is one of the tick events that may fall within an item. -/
theorem tickEvents_succ (n : Nat) (h : Hub) : h.tickEvents (n + 1) = h.tickEvent.catchUp.tickEvents n := rfl

end Hub

/-- An event of `onHub` answers a next state: its effect on the hub after the catching up, the queue as it stands. -/
theorem State.onHub_next (s : State) (f : Hub → Hub) : s.onHub f = .next (s.withHub (f s.toHub.catchUp)) := rfl

end Sys2Proof.Machine
end

