-- ==== Sys2Proof/Laws/Step.lean ====
section
/-! SUPPORT. What a step and a command can do: every command but the two halves of a tick event is an event on the hub after
the catching up; a command that takes an object request performs it. -/

namespace Sys2Proof.Machine

theorem exec_deadlineDue (s : State) : exec .deadlineDue s = .next (s.withHub s.toHub.moveDue) := rfl

theorem exec_keepaliveLapse (l : Link) (s : State) : exec (.keepaliveLapse l) s = .next (s.withHub (s.toHub.lapse l)) := rfl

/-- Every other command is an event on the hub after the catching up. -/
theorem exec_onHub (c : Instr) (catches : c.catchesUp = true) : ∃ f, ∀ s, exec c s = s.onHub f := by
  cases c
  case deadlineDue => simp [Instr.catchesUp] at catches
  case keepaliveLapse => simp [Instr.catchesUp] at catches
  all_goals
    refine Exists.intro ?_ ?_
    rotate_left
    · intro s
      simp only [exec, execPinReset, execTickEvent, execLineBreak, execSettlingComplete, execReceiveError, execAbortMark,
        execUnknownKind, execHello, execBye, execPing, execLinkStatus, execObjectRequest, execSessionEndTeardown,
        execFrameComplete, execCreateResource, execCreateSignal, execCreateQueue, execDelete, execLookup, execQuery,
        execSetAccess, execReclaim, execAcquire, execRelease, execSignal, execWait, execCancel, execSend, execReceive,
        execFlush, execEvict, execHubReset, execFreeWaiter, execSpendMessage, execPurge, execExpiry, execGoodCharacter]
      rfl

/-- A command finds the catching up done. -/
theorem exec_withHub_catchUp (c : Instr) (s : State) (catches : c.catchesUp = true) :
    exec c (s.withHub s.toHub.catchUp) = exec c s := by
  obtain ⟨f, eq⟩ := exec_onHub c catches
  rw [eq, eq, State.onHub_next, State.onHub_next]
  simp only [State.withHub, Hub.catchUp_catchUp]

/-- What the engine does with a request that it has taken, `ticks` tick events falling before an insert claim (R97). -/
def ObjReq.perform (body : ObjReq) (ticks : Nat) (l : Link) (rq : Request) (h : Hub) : Hub :=
  match body with
  | .createResource c limit robust => h.createResource l rq c limit robust
  | .createSignal c limit initial => h.createSignal l rq c limit initial
  | .createQueue c base blocks maxEntries maxLength threshold present companion =>
    h.createQueue l rq c base blocks maxEntries maxLength threshold present companion
  | .delete hd => h.delete l rq hd
  | .lookup name => h.lookup l rq name
  | .query hd => h.query l rq hd
  | .setAccess hd access => h.setAccess l rq hd access
  | .reclaim hd => h.reclaimTokens l rq hd
  | .acquire hd amount priority timeout => h.acquire ticks l rq hd amount priority timeout
  | .release hd amount => h.release l rq hd amount
  | .signal hd amount => h.signal l rq hd amount
  | .wait hd priority timeout => h.wait ticks l rq hd priority timeout
  | .cancel tag => h.cancel l rq tag
  | .send hd payload => h.send l rq hd payload
  | .receive hd priority timeout => h.receive ticks l rq hd priority timeout
  | .flush hd => h.flush l rq hd
  | .evict target => h.evict l rq target
  | .hubReset => h.hubReset l rq

theorem Hub.onRequest_of_takes {h : Hub} {l : Link} {rq : Request} (takes : h.Takes l rq)
    (perform : Link → Request → Hub → Option Hub) :
    h.onRequest perform = (perform l rq (h.takeFrom l)).getD h := by
  simp only [onRequest, Hub.Takes] at takes ⊢; rw [takes]

/-- The command of the request that the arbiter gives performs that request. -/
theorem exec_request {s : State} {l : Link} {rq : Request} (ticks : Nat) (takes : s.toHub.catchUp.Takes l rq) :
    exec (rq.body.command ticks) s = .next (s.withHub (rq.body.perform ticks l rq (s.toHub.catchUp.takeFrom l))) := by
  obtain ⟨tag, session, slot, body⟩ := rq
  cases body <;>
    simp only [ObjReq.command, exec, execCreateResource, execCreateSignal, execCreateQueue, execDelete, execLookup,
      execQuery, execSetAccess, execReclaim, execAcquire, execRelease, execSignal, execWait, execCancel, execSend,
      execReceive, execFlush, execEvict, execHubReset, State.onHub_next, Hub.onRequest_of_takes takes, Option.getD_some,
      ObjReq.perform]

end Sys2Proof.Machine
end

