-- ==== Sys2Proof/Laws/Checks.lean ====
section
/-! SUPPORT. The checks of a request: the list of `Hub.checks` and what the meanings do agree, check by check. -/

namespace Sys2Proof.Machine

theorem firstFailing_append (a b : List (Bool × ResultCode)) :
    firstFailing (a ++ b) = (firstFailing a).or (firstFailing b) := by
  induction a with
  | nil => rfl
  | cons p a ih =>
    obtain ⟨fails, code⟩ := p
    cases fails <;> simp [firstFailing, ih]

theorem firstFailing_cons (fails : Bool) (code : ResultCode) (more : List (Bool × ResultCode)) :
    firstFailing ((fails, code) :: more) = if fails then some code else firstFailing more := rfl

@[simp] theorem firstFailing_nil : firstFailing [] = none := rfl

namespace Hub

theorem slotOf_some {h : Hub} {hd : Handle} {i : Fin 48} (is : h.slotOf hd = some i) :
    hd = { slot := i, gen := (h.slot i).gen } ∧ (h.slot i).state ≠ .free := by
  unfold slotOf at is
  split at is
  · rename_i lt
    simp only at is
    split at is
    · rename_i c
      cases is
      obtain ⟨slot, gen⟩ := hd
      simp only at c lt ⊢
      exact ⟨by rw [c.1], c.2⟩
    · simp at is
  · simp at is

theorem objAt_of_slotOf {h : Hub} {hd : Handle} {i : Fin 48} (is : h.slotOf hd = some i) : ∃ o, h.objAt i = some o := by
  have used := (slotOf_some is).2
  unfold objAt
  cases st : (h.slot i).state with
  | free => exact absurd st used
  | live o => exact ⟨o, rfl⟩
  | draining o => exact ⟨o, rfl⟩

/-- The common checks (R5): the first failing one is the refusal, and when none fails the handle names an object of the kind
accepted, in whose access set the link is, LIVE unless the request is QUERY. -/
theorem checkHandle_spec {α : Type} (h : Hub) (l : Link) (hd : Handle) (kind? : Part → Option α) (isQuery : Bool) :
    (∀ e, firstFailing (h.handleChecks l hd (fun p => (kind? p).isSome) isQuery) = some e →
      h.checkHandle l hd kind? isQuery = .error e) ∧
    (firstFailing (h.handleChecks l hd (fun p => (kind? p).isSome) isQuery) = none →
      ∃ i o p, h.checkHandle l hd kind? isQuery = .ok (i, o, p) ∧ h.slotOf hd = some i ∧ h.objAt i = some o ∧
        kind? o.part = some p ∧ LinkSet.has o.access l = true ∧ (isQuery = false → (h.slot i).state = .live o)) := by
  obtain ⟨slot, gen⟩ := hd
  by_cases lt : slot < 48
  · have nlt : ¬ 47 < slot := by omega
    simp only [checkHandle, handleChecks, firstFailing_cons, firstFailing_nil, objOf, drainingAt, slotOf, objAt, lt, dite_true,
      nlt, decide_false]
    generalize e : h.slot ⟨slot, lt⟩ = s
    obtain ⟨g, st⟩ := s
    by_cases c : g = gen
    · subst c
      cases st with
      | free => simp [SlotState.obj]
      | live o =>
        rcases k : kind? o.part with _ | p <;> rcases a : LinkSet.has o.access l with _ | _ <;>
          simp [SlotState.obj, k, a, e, objAt]
      | draining o =>
        cases isQuery <;> rcases k : kind? o.part with _ | p <;> rcases a : LinkSet.has o.access l with _ | _ <;>
          simp [SlotState.obj, k, a, e, objAt]
    · cases st <;> simp [SlotState.obj, c]
  · have nlt : 47 < slot := by omega
    simp [checkHandle, handleChecks, firstFailing_cons, lt, nlt]

end Hub
end Sys2Proof.Machine
end

