-- ==== Sys2Proof/Laws/Requests.lean ====
section
/-! SUPPORT. What each object request does: the first check that fails refuses it, and what it does when none fails. -/

namespace Sys2Proof.Machine
namespace Hub

/-- The common checks, split: refused with the first failing one, or passed. -/
theorem handle_cases {α : Type} (h : Hub) (l : Link) (hd : Handle) (kind? : Part → Option α) (isQuery : Bool) :
    (∃ e, firstFailing (h.handleChecks l hd (fun p => (kind? p).isSome) isQuery) = some e ∧
      h.checkHandle l hd kind? isQuery = .error e) ∨
    (firstFailing (h.handleChecks l hd (fun p => (kind? p).isSome) isQuery) = none ∧
      ∃ i o p, h.checkHandle l hd kind? isQuery = .ok (i, o, p) ∧ h.slotOf hd = some i ∧ h.objAt i = some o ∧
        kind? o.part = some p ∧ LinkSet.has o.access l = true ∧ (isQuery = false → (h.slot i).state = .live o)) := by
  have s := h.checkHandle_spec l hd kind? isQuery
  rcases e : firstFailing (h.handleChecks l hd (fun p => (kind? p).isSome) isQuery) with _ | c
  · exact Or.inr ⟨rfl, s.2 e⟩
  · exact Or.inl ⟨c, rfl, s.1 c e⟩

theorem part_resource {p : Part} {r : Resource} (is : p.resource? = some r) : p = .resource r := by
  cases p <;> simp [Part.resource?] at is; rw [is]
theorem part_signal {p : Part} {r : Signal} (is : p.signal? = some r) : p = .signal r := by
  cases p <;> simp [Part.signal?] at is; rw [is]
theorem part_queue {p : Part} {r : Queue} (is : p.queue? = some r) : p = .queue r := by
  cases p <;> simp [Part.queue?] at is; rw [is]

theorem resourceOf_eq {h : Hub} {hd : Handle} {i : Fin 48} {o : Obj} {r : Resource} (is : h.slotOf hd = some i)
    (ob : h.objAt i = some o) (pt : o.part.resource? = some r) : h.resourceOf hd = some r := by
  simp [resourceOf, objOf, is, ob, pt]
theorem signalOf_eq {h : Hub} {hd : Handle} {i : Fin 48} {o : Obj} {r : Signal} (is : h.slotOf hd = some i)
    (ob : h.objAt i = some o) (pt : o.part.signal? = some r) : h.signalOf hd = some r := by
  simp [signalOf, objOf, is, ob, pt]
theorem queueOf_eq {h : Hub} {hd : Handle} {i : Fin 48} {o : Obj} {r : Queue} (is : h.slotOf hd = some i)
    (ob : h.objAt i = some o) (pt : o.part.queue? = some r) : h.queueOf hd = some r := by
  simp [queueOf, objOf, is, ob, pt]

theorem setPart_live {h : Hub} {i : Fin 48} {o : Obj} (live : (h.slot i).state = .live o) (p : Part) :
    h.setPart i p = h.setLive i o p := by
  simp [setPart, modObj, setLive, live, SlotState.modObj]

theorem fieldsBad_eq (p t : Nat) : waitFieldsBad p t = !(priorityOk p && timeoutOk t) := by
  simp only [waitFieldsBad, priorityOk, timeoutOk]
  rw [Bool.eq_iff_iff]
  simp
  omega

theorem findTag_isSome (h : Hub) (l : Link) (tag : Byte) :
    (h.findTag l tag).isSome = h.waiters.any fun w => decide (w.link = l ∧ w.tag = tag) := by
  rw [findTag, Bool.eq_iff_iff, List.find?_isSome, List.any_eq_true]

/-- The waiter stage of a request (R48): nothing when it is met at once. -/
theorem waitChecks_spec (h : Hub) (l : Link) (tag : Byte) (blocked : Bool) (timeout : Nat) (code : ResultCode) :
    firstFailing (h.waitChecks l tag blocked timeout code) =
      if blocked then (if timeout = 0 then some code else h.waiterRefusal l tag) else none := by
  cases blocked
  · rfl
  · simp only [waitChecks, firstFailing_cons, waiterRefusal, findTag_isSome, Config.waiterQuota, Bool.true_and,
      decide_eq_true_eq, firstFailing_nil, if_true]
    by_cases z : timeout = 0
    · simp [z]
    · by_cases y : 24 ≤ h.owned l <;> simp [z, y]

theorem stampCounter_makeWaiter (h : Hub) (ticks : Nat) (l : Link) (rq : Request) (hd : Handle) (i : Fin 48) (d : Discipline) (op : WaitOp)
    (amount priority timeout : Nat) :
    (h.makeWaiter ticks l rq hd i d op amount priority timeout).stampCounter = h.stampCounter + 1 := by
  simp only [makeWaiter, reply_stampCounter, insertClaim]
  repeat' split
  all_goals simp

/-- ACQUIRE (R29, R30). -/
theorem acquire_spec (h : Hub) (ticks : Nat) (l : Link) (rq : Request) (hd : Handle) (amount priority timeout : Nat)
    (body : rq.body = .acquire hd amount priority timeout) :
    (∀ code, h.refusal l rq = some code → h.acquire ticks l rq hd amount priority timeout = h.refuse l rq code) ∧
    (h.refusal l rq = none → ∃ i o r, h.slotOf hd = some i ∧ (h.slot i).state = .live o ∧ o.part = .resource r ∧
      (h.acquireBlocked hd amount = false → r.waitList = [] ∧ amount ≤ r.available ∧
        h.acquire ticks l rq hd amount priority timeout =
          (h.setLive i o (.resource { r with available := r.available - amount,
                                             holdings := r.holdings.set l (r.holdings.get l + amount) })).reply
            l rq .ok [] none) ∧
      (h.acquireBlocked hd amount = true →
        let h1 := h.makeWaiter ticks l rq hd i o.discipline .acquire amount priority timeout
        h.acquire ticks l rq hd amount priority timeout =
          if h.waitListAt i ≠ [] ∧ (h1.waitListAt i).head? = some (h.stampCounter + 1) then h1.grantPass i else h1)) := by
  simp only [refusal, checks, body, firstFailing_append]
  rcases h.handle_cases l hd Part.resource? false with ⟨e, f, c⟩ | ⟨f, i, o, r, c, is, ob, pt, acc, live⟩
  · rw [f]; simp only [acquire, c, Option.some_or]
    exact ⟨fun _ e => by cases e; rfl, fun e => nomatch e⟩
  · have live := live rfl
    have blocked : h.acquireBlocked hd amount = (decide (r.waitList ≠ []) || decide (r.available < amount)) := by
      simp only [acquireBlocked, resourceOf_eq is ob pt, Option.any_some]
    have fits : h.acquireBlocked hd amount = false ↔ r.waitList = [] ∧ amount ≤ r.available := by
      rw [blocked]; simp
    clear blocked
    revert fits
    generalize h.acquireBlocked hd amount = b
    intro fits
    rw [f]
    simp only [Option.none_or, waitChecks_spec, firstFailing_cons, firstFailing_nil, resourceOf_eq is ob pt, acquire, c,
      Option.any_some, fieldsBad_eq, Bool.or_eq_true, decide_eq_true_eq, Bool.not_eq_true']
    by_cases b1 : amount = 0 ∨ r.limit < amount
    · simp only [if_pos b1, Option.some_or]
      exact ⟨fun _ e => by cases e; rfl, fun e => nomatch e⟩
    · simp only [if_neg b1]
      rcases b2 : (priorityOk priority && timeoutOk timeout)
      · simp only [if_true, Option.some_or, Bool.false_eq_true, if_false]
        exact ⟨fun _ e => by cases e; rfl, fun e => nomatch e⟩
      · simp only [if_true, Option.none_or, Bool.true_eq_false, if_false]
        cases b
        · have b3 := fits.1 rfl
          rw [if_pos b3]
          exact ⟨fun _ e => (nomatch e), fun _ => ⟨i, o, r, is, live, part_resource pt,
            fun _ => ⟨b3.1, b3.2, by rw [setPart_live live]⟩, fun e => nomatch e⟩⟩
        · have b3 : ¬ (r.waitList = [] ∧ amount ≤ r.available) := fun x => nomatch fits.2 x
          rw [if_neg b3, if_pos rfl]
          simp only [acquireWait]
          by_cases z : timeout = 0
          · rw [if_pos z, if_pos z]
            exact ⟨fun _ e => by cases e; rfl, fun e => nomatch e⟩
          · rw [if_neg z, if_neg z]
            rcases w : h.waiterRefusal l rq.tag with _ | e
            · exact ⟨fun _ e => (nomatch e), fun _ => ⟨i, o, r, is, live, part_resource pt, fun e => (nomatch e),
                fun _ => by simp only [stampCounter_makeWaiter]⟩⟩
            · exact ⟨fun _ e => by cases e; rfl, fun e => nomatch e⟩

/-- WAIT (R33, R34). -/
theorem wait_spec (h : Hub) (ticks : Nat) (l : Link) (rq : Request) (hd : Handle) (priority timeout : Nat)
    (body : rq.body = .wait hd priority timeout) :
    (∀ code, h.refusal l rq = some code → h.wait ticks l rq hd priority timeout = h.refuse l rq code) ∧
    (h.refusal l rq = none → ∃ i o g, h.slotOf hd = some i ∧ (h.slot i).state = .live o ∧ o.part = .signal g ∧
      (h.waitBlocked hd = false → g.waitList = [] ∧ 1 ≤ g.count ∧
        h.wait ticks l rq hd priority timeout =
          (h.setLive i o (.signal { g with count := g.count - 1 })).reply l rq .ok [] none) ∧
      (h.waitBlocked hd = true →
        h.wait ticks l rq hd priority timeout = h.makeWaiter ticks l rq hd i o.discipline .wait 1 priority timeout)) := by
  simp only [refusal, checks, body, firstFailing_append]
  rcases h.handle_cases l hd Part.signal? false with ⟨e, f, c⟩ | ⟨f, i, o, g, c, is, ob, pt, acc, live⟩
  · rw [f]; simp only [wait, c, Option.some_or]
    exact ⟨fun _ e => by cases e; rfl, fun e => nomatch e⟩
  · have live := live rfl
    have fits : h.waitBlocked hd = false ↔ g.waitList = [] ∧ 1 ≤ g.count := by
      simp only [waitBlocked, signalOf_eq is ob pt, Option.any_some]; simp; omega
    revert fits
    generalize h.waitBlocked hd = b
    intro fits
    rw [f]
    simp only [Option.none_or, waitChecks_spec, firstFailing_cons, firstFailing_nil, wait, c, fieldsBad_eq,
      Bool.not_eq_true']
    rcases b2 : (priorityOk priority && timeoutOk timeout)
    · simp only [if_true, Option.some_or, Bool.false_eq_true, if_false]
      exact ⟨fun _ e => by cases e; rfl, fun e => nomatch e⟩
    · simp only [if_true, Option.none_or, Bool.true_eq_false, if_false]
      cases b
      · have b3 := fits.1 rfl
        rw [if_pos b3]
        exact ⟨fun _ e => (nomatch e), fun _ => ⟨i, o, g, is, live, part_signal pt,
          fun _ => ⟨b3.1, b3.2, by rw [setPart_live live]⟩, fun e => nomatch e⟩⟩
      · have b3 : ¬ (g.waitList = [] ∧ 1 ≤ g.count) := fun x => nomatch fits.2 x
        rw [if_neg b3, if_pos rfl]
        by_cases z : timeout = 0
        · rw [if_pos z, if_pos z]
          exact ⟨fun _ e => by cases e; rfl, fun e => nomatch e⟩
        · rw [if_neg z, if_neg z]
          rcases w : h.waiterRefusal l rq.tag with _ | e
          · exact ⟨fun _ e => (nomatch e), fun _ => ⟨i, o, g, is, live, part_signal pt, fun e => (nomatch e), fun _ => rfl⟩⟩
          · exact ⟨fun _ e => by cases e; rfl, fun e => nomatch e⟩

end Hub

/-- A claim takes the oldest READY message (R78), and there is none exactly when no message is READY. -/
theorem Queue.claimOldest_spec (c : Claimant) (ms : List Message) :
    (ms.countP Message.isReady = 0 ∧ Queue.claimOldest c ms = none) ∨
    ∃ older m newer, ms = older ++ m :: newer ∧ (∀ x ∈ older, x.state ≠ .ready) ∧ m.state = .ready ∧
      0 < ms.countP Message.isReady ∧ Queue.claimOldest c ms = some (m.claim c, older ++ m.claim c :: newer) := by
  induction ms with
  | nil => exact Or.inl ⟨rfl, rfl⟩
  | cons m ms ih =>
    by_cases r : m.state = .ready
    · have rb : m.isReady = true := by simp [Message.isReady, r]
      exact Or.inr ⟨[], m, ms, rfl, by simp, r, by simp [rb], by simp [Queue.claimOldest, rb]⟩
    · have rb : m.isReady = false := by simp [Message.isReady, r]
      rcases ih with ⟨z, n⟩ | ⟨older, x, newer, eq, before, ready, pos, cl⟩
      · exact Or.inl ⟨by simp [rb, z], by simp [Queue.claimOldest, rb, n]⟩
      · refine Or.inr ⟨m :: older, x, newer, by rw [eq]; rfl, ?_, ready, by simpa [rb] using pos, by simp [Queue.claimOldest, rb, cl]⟩
        intro y hy
        rcases List.mem_cons.1 hy with rfl | hy
        · exact r
        · exact before y hy

namespace Hub

/-- RECEIVE (R78). -/
theorem receive_spec (h : Hub) (ticks : Nat) (l : Link) (rq : Request) (hd : Handle) (priority timeout : Nat)
    (body : rq.body = .receive hd priority timeout) :
    (∀ code, h.refusal l rq = some code → h.receive ticks l rq hd priority timeout = h.refuse l rq code) ∧
    (h.refusal l rq = none → ∃ i o q, h.slotOf hd = some i ∧ (h.slot i).state = .live o ∧ o.part = .queue q ∧
      (h.receiveBlocked hd = false → ∃ older m newer, q.messages = older ++ m :: newer ∧ (∀ x ∈ older, x.state ≠ .ready) ∧
        m.state = .ready ∧
        let m' := m.claim ⟨l, rq.session, .response⟩
        h.receive ticks l rq hd priority timeout =
          (h.setLive i o (.queue { q with messages := older ++ m' :: newer })).reply l rq .ok
            (payloadBody hd m'.seq m'.deliveries (q.payload h.packetMemory m')) (some { queue := hd, seq := m'.seq })) ∧
      (h.receiveBlocked hd = true →
        h.receive ticks l rq hd priority timeout = h.makeWaiter ticks l rq hd i o.discipline .receive 1 priority timeout)) := by
  simp only [refusal, checks, body, firstFailing_append]
  rcases h.handle_cases l hd Part.queue? false with ⟨e, f, c⟩ | ⟨f, i, o, q, c, is, ob, pt, acc, live⟩
  · rw [f]; simp only [receive, c, Option.some_or]
    exact ⟨fun _ e => by cases e; rfl, fun e => nomatch e⟩
  · have live := live rfl
    have fits : h.receiveBlocked hd = decide (q.messages.countP Message.isReady = 0) := by
      simp only [receiveBlocked, queueOf_eq is ob pt, Option.any_some]; rfl
    rw [f]
    simp only [Option.none_or, waitChecks_spec, firstFailing_cons, firstFailing_nil, receive, c, fieldsBad_eq,
      Bool.not_eq_true']
    rcases b2 : (priorityOk priority && timeoutOk timeout)
    · simp only [if_true, Option.some_or, Bool.false_eq_true, if_false]
      exact ⟨fun _ e => by cases e; rfl, fun e => nomatch e⟩
    · simp only [if_true, Option.none_or, Bool.true_eq_false, if_false]
      rcases Queue.claimOldest_spec ⟨l, rq.session, .response⟩ q.messages with ⟨z, n⟩ | ⟨older, m, newer, eq, before, ready, pos, cl⟩
      · have b : h.receiveBlocked hd = true := by rw [fits, z]; rfl
        rw [b, n, if_pos rfl]
        dsimp only
        by_cases z : timeout = 0
        · rw [if_pos z, if_pos z]
          exact ⟨fun _ e => by cases e; rfl, fun e => nomatch e⟩
        · rw [if_neg z, if_neg z]
          rcases w : h.waiterRefusal l rq.tag with _ | e
          · exact ⟨fun _ e => (nomatch e), fun _ => ⟨i, o, q, is, live, part_queue pt, fun e => (nomatch e), fun _ => rfl⟩⟩
          · exact ⟨fun _ e => by cases e; rfl, fun e => nomatch e⟩
      · have b : h.receiveBlocked hd = false := by rw [fits]; exact decide_eq_false (by omega)
        rw [b, cl]
        exact ⟨fun _ e => (nomatch e), fun _ => ⟨i, o, q, is, live, part_queue pt,
          fun _ => ⟨older, m, newer, eq, before, ready, by dsimp only; rw [setPart_live live]⟩, fun e => nomatch e⟩⟩

/-- RELEASE (R31). -/
theorem release_spec (h : Hub) (l : Link) (rq : Request) (hd : Handle) (amount : Nat) (body : rq.body = .release hd amount) :
    (∀ code, h.refusal l rq = some code → h.release l rq hd amount = h.refuse l rq code) ∧
    (h.refusal l rq = none → ∃ i o r, h.slotOf hd = some i ∧ (h.slot i).state = .live o ∧ o.part = .resource r ∧
      amount ≤ r.holdings.get l ∧
      h.release l rq hd amount = ((h.setLive i o (.resource
        { r with available := r.available + amount,
                 holdings := r.holdings.set l (r.holdings.get l - amount) })).reply l rq .ok [] none).grantPass i) := by
  simp only [refusal, checks, body, firstFailing_append]
  rcases h.handle_cases l hd Part.resource? false with ⟨e, f, c⟩ | ⟨f, i, o, r, c, is, ob, pt, acc, live⟩
  · rw [f]; simp only [release, c, Option.some_or]
    exact ⟨fun _ e => by cases e; rfl, fun e => nomatch e⟩
  · have live := live rfl
    rw [f]
    simp only [Option.none_or, firstFailing_cons, firstFailing_nil, resourceOf_eq is ob pt, release, c,
      Option.any_some, Bool.or_eq_true, decide_eq_true_eq]
    by_cases b1 : amount = 0 ∨ r.limit < amount
    · simp only [if_pos b1]
      exact ⟨fun _ e => by cases e; rfl, fun e => nomatch e⟩
    · by_cases b2 : r.holdings.get l < amount
      · simp only [if_neg b1, if_pos b2]
        exact ⟨fun _ e => by cases e; rfl, fun e => nomatch e⟩
      · simp only [if_neg b1, if_neg b2]
        exact ⟨fun _ e => (nomatch e), fun _ => ⟨i, o, r, is, live, part_resource pt, Nat.le_of_not_lt b2,
          by rw [setPart_live live]⟩⟩

/-- SIGNAL (R32). -/
theorem signal_spec (h : Hub) (l : Link) (rq : Request) (hd : Handle) (amount : Nat) (body : rq.body = .signal hd amount) :
    (∀ code, h.refusal l rq = some code → h.signal l rq hd amount = h.refuse l rq code) ∧
    (h.refusal l rq = none → ∃ i o g, h.slotOf hd = some i ∧ (h.slot i).state = .live o ∧ o.part = .signal g ∧
      g.count + amount ≤ g.limit ∧
      h.signal l rq hd amount =
        ((h.setLive i o (.signal { g with count := g.count + amount })).reply l rq .ok [] none).grantPass i) := by
  simp only [refusal, checks, body, firstFailing_append]
  rcases h.handle_cases l hd Part.signal? false with ⟨e, f, c⟩ | ⟨f, i, o, g, c, is, ob, pt, acc, live⟩
  · rw [f]; simp only [signal, c, Option.some_or]
    exact ⟨fun _ e => by cases e; rfl, fun e => nomatch e⟩
  · have live := live rfl
    rw [f]
    simp only [Option.none_or, firstFailing_cons, firstFailing_nil, signalOf_eq is ob pt, signal, c,
      Option.any_some, Bool.or_eq_true, decide_eq_true_eq]
    by_cases b1 : amount = 0 ∨ g.limit < amount
    · simp only [if_pos b1]
      exact ⟨fun _ e => by cases e; rfl, fun e => nomatch e⟩
    · by_cases b2 : g.limit < g.count + amount
      · simp only [if_neg b1, if_pos b2]
        exact ⟨fun _ e => by cases e; rfl, fun e => nomatch e⟩
      · simp only [if_neg b1, if_neg b2]
        exact ⟨fun _ e => (nomatch e), fun _ => ⟨i, o, g, is, live, part_signal pt, Nat.le_of_not_lt b2,
          by rw [setPart_live live]⟩⟩

/-- RECLAIM (R35). -/
theorem reclaimTokens_spec (h : Hub) (l : Link) (rq : Request) (hd : Handle) (body : rq.body = .reclaim hd) :
    (∀ code, h.refusal l rq = some code → h.reclaimTokens l rq hd = h.refuse l rq code) ∧
    (h.refusal l rq = none → ∃ i o r, h.slotOf hd = some i ∧ (h.slot i).state = .live o ∧ o.part = .resource r ∧
      h.manages l = true ∧
      h.reclaimTokens l rq hd =
        ((h.setLive i o (.resource { r with available := r.available + r.stranded, stranded := 0 })).reply l rq .ok
          [byteOf r.stranded] none).grantPass i) := by
  simp only [refusal, checks, body, firstFailing_append]
  rcases h.handle_cases l hd Part.resource? false with ⟨e, f, c⟩ | ⟨f, i, o, r, c, is, ob, pt, acc, live⟩
  · rw [f]; simp only [reclaimTokens, c, Option.some_or]
    exact ⟨fun _ e => by cases e; rfl, fun e => nomatch e⟩
  · have live := live rfl
    rw [f]
    simp only [Option.none_or, firstFailing_cons, firstFailing_nil, reclaimTokens, c]
    cases m : h.manages l
    · exact ⟨fun _ e => by cases e; rfl, fun e => nomatch e⟩
    · exact ⟨fun _ e => (nomatch e), fun _ => ⟨i, o, r, is, live, part_resource pt, rfl, by rw [setPart_live live]; rfl⟩⟩

/-- FLUSH (R84). -/
theorem flush_spec (h : Hub) (l : Link) (rq : Request) (hd : Handle) (body : rq.body = .flush hd) :
    (∀ code, h.refusal l rq = some code → h.flush l rq hd = h.refuse l rq code) ∧
    (h.refusal l rq = none → ∃ i o q, h.slotOf hd = some i ∧ (h.slot i).state = .live o ∧ o.part = .queue q ∧
      h.flush l rq hd = (h.setLive i o (.queue q.spendReady.reclaim)).reply l rq .ok [byteOf q.readyCount] none) := by
  simp only [refusal, checks, body, firstFailing_append]
  rcases h.handle_cases l hd Part.queue? false with ⟨e, f, c⟩ | ⟨f, i, o, q, c, is, ob, pt, acc, live⟩
  · rw [f]; simp only [flush, c, Option.some_or]
    exact ⟨fun _ e => by cases e; rfl, fun e => nomatch e⟩
  · have live := live rfl
    have right : ((h.objOf hd).any fun o => decide (o.creator = l) || h.manages l) = h.creatorOrManage l o := by
      simp [objOf, is, ob, creatorOrManage]
    rw [f]
    simp only [Option.none_or, rightCheck, right, firstFailing_cons, firstFailing_nil, flush, c]
    cases m : h.creatorOrManage l o
    · exact ⟨fun _ e => by cases e; rfl, fun e => nomatch e⟩
    · exact ⟨fun _ e => (nomatch e), fun _ => ⟨i, o, q, is, live, part_queue pt, by rw [setPart_live live]; rfl⟩⟩

/-- SEND (R76, R77). -/
theorem send_spec (h : Hub) (l : Link) (rq : Request) (hd : Handle) (payload : List Byte) (body : rq.body = .send hd payload) :
    (∀ code, h.refusal l rq = some code → h.send l rq hd payload = h.refuse l rq code) ∧
    (h.refusal l rq = none → ∃ i o q, h.slotOf hd = some i ∧ (h.slot i).state = .live o ∧ o.part = .queue q ∧
      payload.length ≤ q.maxLength ∧ q.messages.length < q.maxEntries ∧ footprint payload.length ≤ q.freeBytes ∧
      h.send l rq hd payload = h.acceptSend l rq i q payload) := by
  simp only [refusal, checks, body, firstFailing_append]
  rcases h.handle_cases l hd Part.queue? false with ⟨e, f, c⟩ | ⟨f, i, o, q, c, is, ob, pt, acc, live⟩
  · rw [f]; simp only [send, c, Option.some_or]
    exact ⟨fun _ e => by cases e; rfl, fun e => nomatch e⟩
  · have live := live rfl
    rw [f]
    simp only [Option.none_or, firstFailing_cons, firstFailing_nil, queueOf_eq is ob pt, send, c, Option.any_some,
      decide_eq_true_eq]
    by_cases b1 : q.maxLength < payload.length
    · simp only [if_pos b1]
      exact ⟨fun _ e => by cases e; rfl, fun e => nomatch e⟩
    · by_cases b2 : q.maxEntries ≤ q.messages.length ∨ q.freeBytes < footprint payload.length
      · simp only [if_neg b1, if_pos b2]
        exact ⟨fun _ e => by cases e; rfl, fun e => nomatch e⟩
      · simp only [if_neg b1, if_neg b2]
        exact ⟨fun _ e => (nomatch e), fun _ => ⟨i, o, q, is, live, part_queue pt, by omega, by omega, by omega, rfl⟩⟩

/-- QUERY (R18). -/
theorem query_spec (h : Hub) (l : Link) (rq : Request) (hd : Handle) (body : rq.body = .query hd) :
    (∀ code, h.refusal l rq = some code → h.query l rq hd = h.refuse l rq code) ∧
    (h.refusal l rq = none → ∃ i o, h.slotOf hd = some i ∧ h.objAt i = some o ∧
      h.query l rq hd = h.reply l rq .ok (querySnapshot hd (h.slot i).state o) none) := by
  simp only [refusal, checks, body]
  rcases h.handle_cases l hd some true with ⟨e, f, c⟩ | ⟨f, i, o, q, c, is, ob, pt, acc, live⟩
  · rw [show firstFailing (h.handleChecks l hd (fun _ => true) true) = some e from f]; simp only [query, c]
    exact ⟨fun _ e => by cases e; rfl, fun e => nomatch e⟩
  · rw [show firstFailing (h.handleChecks l hd (fun _ => true) true) = none from f]; simp only [query, c]
    exact ⟨fun _ e => (nomatch e), fun _ => ⟨i, o, is, ob, rfl⟩⟩

/-- SET_ACCESS (R13). -/
theorem setAccess_spec (h : Hub) (l : Link) (rq : Request) (hd : Handle) (access : Byte)
    (body : rq.body = .setAccess hd access) :
    (∀ code, h.refusal l rq = some code → h.setAccess l rq hd access = h.refuse l rq code) ∧
    (h.refusal l rq = none → ∃ i o, h.slotOf hd = some i ∧ (h.slot i).state = .live o ∧
      LinkSet.has (linkSetOf access) o.creator = true ∧
      h.setAccess l rq hd access =
        (h.setSlot i { h.slot i with state := .live { o with access := linkSetOf access } }).reply l rq .ok [] none) := by
  simp only [refusal, checks, body, firstFailing_append]
  rcases h.handle_cases l hd some false with ⟨e, f, c⟩ | ⟨f, i, o, q, c, is, ob, pt, acc, live⟩
  · rw [show firstFailing (h.handleChecks l hd (fun _ => true) false) = some e from f]
    simp only [setAccess, c, Option.some_or]
    exact ⟨fun _ e => by cases e; rfl, fun e => nomatch e⟩
  · have live := live rfl
    have right : ((h.objOf hd).any fun o => decide (o.creator = l) || h.manages l) = h.creatorOrManage l o := by
      simp [objOf, is, ob, creatorOrManage]
    have set : ((h.objOf hd).any fun o => LinkSet.has (linkSetOf access) o.creator) = LinkSet.has (linkSetOf access) o.creator := by
      simp [objOf, is, ob]
    rw [show firstFailing (h.handleChecks l hd (fun _ => true) false) = none from f]
    simp only [Option.none_or, rightCheck, right, set, firstFailing_cons, firstFailing_nil, setAccess, c]
    cases m : h.creatorOrManage l o
    · exact ⟨fun _ e => by cases e; rfl, fun e => nomatch e⟩
    · cases b : accessByteOk access <;> cases b2 : LinkSet.has (linkSetOf access) o.creator <;>
        first
        | exact ⟨fun _ e => by cases e; rfl, fun e => nomatch e⟩
        | exact ⟨fun _ e => (nomatch e), fun _ => ⟨i, o, is, live, b2, by simp [modObj, live, SlotState.modObj]⟩⟩

theorem findName_some {h : Hub} {name : List Byte} {i : Fin 48} (is : h.findName name = some i) :
    ∃ o, h.objAt i = some o ∧ o.name = some name := by
  have p := List.find?_some is
  split at p
  · rename_i o e; exact ⟨o, e, by simpa using p⟩
  · cases p

/-- LOOKUP (R8). -/
theorem lookup_spec (h : Hub) (l : Link) (rq : Request) (name : List Byte) (body : rq.body = .lookup name) :
    (∀ code, h.refusal l rq = some code → h.lookup l rq name = h.refuse l rq code) ∧
    (h.refusal l rq = none → ∃ i o, h.objAt i = some o ∧ o.name = some name ∧
      h.lookup l rq name = h.reply l rq .ok
        (Handle.bytes { slot := i, gen := (h.slot i).gen } ++ [o.part.kindByte, (h.slot i).state.byte]) none) := by
  simp only [refusal, checks, body, firstFailing_cons, firstFailing_nil, lookup]
  by_cases b1 : name = [] ∨ name.all nameByteOk = false
  · rw [if_pos b1, if_pos (by simpa using b1)]
    exact ⟨fun _ e => by cases e; rfl, fun e => nomatch e⟩
  · rw [if_neg b1, if_neg (by simpa using b1)]
    rcases f : h.findName name with _ | i
    · exact ⟨fun _ e => by cases e; rfl, fun e => nomatch e⟩
    · obtain ⟨o, ob, nm⟩ := findName_some f
      simp only [ob, Option.bind_some, Option.any_some, Option.isNone_some]
      cases LinkSet.has o.access l
      · exact ⟨fun _ e => by cases e; rfl, fun e => nomatch e⟩
      · exact ⟨fun _ e => (nomatch e), fun _ => ⟨i, o, ob, nm, rfl⟩⟩

/-- EVICT (R114). -/
theorem evict_spec (h : Hub) (l : Link) (rq : Request) (target : Nat) (body : rq.body = .evict target) :
    (∀ code, h.refusal l rq = some code → h.evict l rq target = h.refuse l rq code) ∧
    (h.refusal l rq = none → ∃ t, linkOf target = some t ∧ t ≠ l ∧
      h.evict l rq target = (h.endSession t .evicted 0 none).reply l rq .ok [] none) := by
  simp only [refusal, checks, body, firstFailing_cons, firstFailing_nil, evict]
  cases m : h.manages l
  · exact ⟨fun _ e => by cases e; rfl, fun e => nomatch e⟩
  · rcases k : linkOf target with _ | t
    · exact ⟨fun _ e => by cases e; rfl, fun e => nomatch e⟩
    · by_cases n : t = l
      · simp only [n, if_true]
        exact ⟨fun _ e => by simp at e; rw [e]; rfl, fun e => by simp at e⟩
      · simp only [n, if_false]
        exact ⟨fun _ e => by simp [n] at e, fun _ => ⟨t, rfl, n, rfl⟩⟩

/-- HUB_RESET without MANAGE (R115). -/
theorem hubReset_refused (h : Hub) (l : Link) (rq : Request) (body : rq.body = .hubReset) (code : ResultCode)
    (e : h.refusal l rq = some code) : h.hubReset l rq = h.refuse l rq code := by
  revert e
  simp only [refusal, checks, body, firstFailing_cons, firstFailing_nil, hubReset]
  cases m : h.manages l
  · exact fun e => by cases e; rfl
  · exact fun e => nomatch e

/-- CANCEL (R59). -/
theorem cancel_spec (h : Hub) (l : Link) (rq : Request) (tag : Byte) (body : rq.body = .cancel tag) :
    (∀ code, h.refusal l rq = some code → h.cancel l rq tag = h.refuse l rq code) ∧
    (h.refusal l rq = none → ∃ w ∈ h.waiters, w.link = l ∧ w.tag = tag ∧ w.state = .waiting ∧
      h.cancel l rq tag = h.cancelWaiting l rq w) := by
  simp only [refusal, checks, body, firstFailing_cons, firstFailing_nil, cancel]
  rcases f : h.findTag l tag with _ | w
  · exact ⟨fun _ e => by cases e; rfl, fun e => nomatch e⟩
  · simp only [Option.any_some, Option.isNone_some, decide_eq_true_eq]
    have p := List.find?_some f
    simp only [decide_eq_true_eq] at p
    by_cases b : w.state = .waiting
    · rw [if_neg (by simp), if_neg (by simpa using b)]; simp only [b, if_true]
      exact ⟨fun _ e => (nomatch e), fun _ => ⟨w, List.mem_of_find?_eq_some f, p.1, p.2, b, rfl⟩⟩
    · rw [if_neg (by simp), if_pos b, if_neg b]
      exact ⟨fun _ e => by cases e; rfl, fun e => nomatch e⟩

/-- DELETE (R14, R15, R16, R85). -/
theorem delete_spec (h : Hub) (l : Link) (rq : Request) (hd : Handle) (body : rq.body = .delete hd) :
    (∀ code, h.refusal l rq = some code → h.delete l rq hd = h.refuse l rq code) ∧
    (h.refusal l rq = none → ∃ i o, h.slotOf hd = some i ∧ (h.slot i).state = .live o ∧
      h.delete l rq hd =
        match o.part with
        | .resource _ => (h.freeSlotAt i).reply l rq .ok [] none
        | .signal g => (g.waitList.foldl abandon (h.reply l rq .ok [] none)).freeSlotAt i
        | .queue q => h.deleteQueue l rq i o q) := by
  simp only [refusal, checks, body, firstFailing_append]
  rcases h.handle_cases l hd some false with ⟨e, f, c⟩ | ⟨f, i, o, p, c, is, ob, pt, acc, live⟩
  · rw [show firstFailing (h.handleChecks l hd (fun _ => true) false) = some e from f]
    simp only [delete, c, Option.some_or]
    exact ⟨fun _ e => by cases e; rfl, fun e => nomatch e⟩
  · have live := live rfl
    have right : ((h.objOf hd).any fun o => decide (o.creator = l) || h.manages l) = h.creatorOrManage l o := by
      simp [objOf, is, ob, creatorOrManage]
    cases pt
    rw [show firstFailing (h.handleChecks l hd (fun _ => true) false) = none from f]
    simp only [Option.none_or, rightCheck, right, firstFailing_cons, firstFailing_nil, delete, c]
    cases m : h.creatorOrManage l o
    · exact ⟨fun _ e => by cases e; rfl, fun e => nomatch e⟩
    · rcases k : o.part with r | g | q
      · have a : h.resourceOf hd = some r := resourceOf_eq is ob (by simp [k, Part.resource?])
        have b : h.signalOf hd = none := by simp [signalOf, objOf, is, ob, k, Part.signal?]
        simp only [a, b, deleteResource]
        by_cases z : r.available < r.limit
        · simp [z]
        · simp [z]; exact ⟨i, is, o, live, by simp [k]⟩
      · have a : h.resourceOf hd = none := by simp [resourceOf, objOf, is, ob, k, Part.resource?]
        have b : h.signalOf hd = some g := signalOf_eq is ob (by simp [k, Part.signal?])
        simp only [a, b, deleteSignal]
        cases z : h.namedAsCompanion hd
        · simp; exact ⟨i, is, o, live, by simp [k]⟩
        · simp
      · have a : h.resourceOf hd = none := by simp [resourceOf, objOf, is, ob, k, Part.resource?]
        have b : h.signalOf hd = none := by simp [signalOf, objOf, is, ob, k, Part.signal?]
        simp only [a, b]
        simp; exact ⟨i, is, o, live, by simp [k]⟩

/-- The checks that every CREATE request passes through (R11), split. -/
theorem create_cases (h : Hub) (l : Link) (c : CreateCommon) :
    (∃ e, firstFailing (h.createChecklist l c) = some e ∧ h.createChecks l c = .error e) ∨
    (firstFailing (h.createChecklist l c) = none ∧ ∃ i, (h.slot i).state = .free ∧ (∀ j < i, (h.slot j).state ≠ .free) ∧
      h.createChecks l c = .ok (i, if c.discipline = 0 then .priority else .arrival)) := by
  simp only [createChecklist, createChecks, firstFailing_cons, firstFailing_nil]
  by_cases b1 : c.name ≠ [] ∧ (h.findName c.name).isSome
  · rw [if_pos b1, if_pos (by simpa using b1)]
    exact Or.inl ⟨_, rfl, rfl⟩
  · rw [if_neg b1, if_neg (by simpa using b1)]
    rcases f : h.lowestFree with _ | i
    · exact Or.inl ⟨_, rfl, rfl⟩
    · obtain ⟨free, before⟩ : (h.slot i).state = .free ∧ ∀ j < i, (h.slot j).state ≠ .free := by
        refine ⟨by simpa using List.find?_some f, fun j lt => ?_⟩
        unfold lowestFree slotNumbers at f
        rw [List.find?_eq_some_iff_getElem] at f
        obtain ⟨_, n, ln, eq, no⟩ := f
        simp only [List.getElem_finRange] at eq no
        have := no j.val (by rw [← eq] at lt; exact lt)
        simpa using this
      simp only [Option.isNone_some]
      rcases d0 : c.discipline with _ | _ | n
      · cases n : c.name.all nameByteOk <;> cases a : accessByteOk c.access <;> cases s : LinkSet.has (linkSetOf c.access) l <;>
          first
          | exact Or.inl ⟨_, rfl, by simp [disciplineOf]⟩
          | exact Or.inr ⟨rfl, i, free, before, by simp [disciplineOf]⟩
      · cases n : c.name.all nameByteOk <;> cases a : accessByteOk c.access <;> cases s : LinkSet.has (linkSetOf c.access) l <;>
          first
          | exact Or.inl ⟨_, rfl, by simp [disciplineOf]⟩
          | exact Or.inr ⟨rfl, i, free, before, by simp [disciplineOf]⟩
      · exact Or.inl ⟨.outOfRange, by simp, by simp [disciplineOf]⟩

/-- What a CREATE request that passes its checks does (R12). -/
def Created (h : Hub) (l : Link) (rq : Request) (c : CreateCommon) (p : Part) (h' : Hub) : Prop :=
  ∃ i : Fin 48, (h.slot i).state = .free ∧ (∀ j < i, (h.slot j).state ≠ .free) ∧
    h' = h.create l rq c i (if c.discipline = 0 then .priority else .arrival) p

/-- CREATE_RESOURCE (R11, R12, R24). -/
theorem createResource_spec (h : Hub) (l : Link) (rq : Request) (c : CreateCommon) (limit robust : Nat)
    (body : rq.body = .createResource c limit robust) :
    (∀ code, h.refusal l rq = some code → h.createResource l rq c limit robust = h.refuse l rq code) ∧
    (h.refusal l rq = none → h.Created l rq c
      (.resource { limit := limit, available := limit, holdings := PerLink.all 0, stranded := 0,
                   robust := decide (robust = 1), waitList := [] }) (h.createResource l rq c limit robust)) := by
  simp only [refusal, checks, body, firstFailing_append, createResource]
  rcases h.create_cases l c with ⟨e, f, k⟩ | ⟨f, i, free, before, k⟩
  · rw [f, k]; exact ⟨fun _ e => by cases e; rfl, fun e => nomatch e⟩
  · rw [f, k]
    by_cases b : limit = 0 ∨ 1 < robust
    · simp only [if_pos b, firstFailing_cons, decide_eq_true b, if_true, Option.none_or]
      exact ⟨fun _ e => by cases e; rfl, fun e => nomatch e⟩
    · simp only [if_neg b, firstFailing_cons, decide_eq_false b]
      exact ⟨fun _ e => (nomatch e), fun _ => ⟨i, free, before, rfl⟩⟩

/-- CREATE_SIGNAL (R11, R12, R25). -/
theorem createSignal_spec (h : Hub) (l : Link) (rq : Request) (c : CreateCommon) (limit initial : Nat)
    (body : rq.body = .createSignal c limit initial) :
    (∀ code, h.refusal l rq = some code → h.createSignal l rq c limit initial = h.refuse l rq code) ∧
    (h.refusal l rq = none → h.Created l rq c (.signal { limit := limit, count := initial, waitList := [] })
      (h.createSignal l rq c limit initial)) := by
  simp only [refusal, checks, body, firstFailing_append, createSignal]
  rcases h.create_cases l c with ⟨e, f, k⟩ | ⟨f, i, free, before, k⟩
  · rw [f, k]; exact ⟨fun _ e => by cases e; rfl, fun e => nomatch e⟩
  · rw [f, k]
    by_cases b : limit = 0 ∨ limit < initial
    · simp only [if_pos b, firstFailing_cons, decide_eq_true b, if_true, Option.none_or]
      exact ⟨fun _ e => by cases e; rfl, fun e => nomatch e⟩
    · simp only [if_neg b, firstFailing_cons, decide_eq_false b]
      exact ⟨fun _ e => (nomatch e), fun _ => ⟨i, free, before, rfl⟩⟩

/-- CREATE_QUEUE (R11, R12, R70). -/
theorem createQueue_spec (h : Hub) (l : Link) (rq : Request) (c : CreateCommon)
    (base blocks maxEntries maxLength threshold present : Nat) (companion : Handle)
    (body : rq.body = .createQueue c base blocks maxEntries maxLength threshold present companion) :
    (∀ code, h.refusal l rq = some code →
      h.createQueue l rq c base blocks maxEntries maxLength threshold present companion = h.refuse l rq code) ∧
    (h.refusal l rq = none → h.Created l rq c
      (.queue { base := base, blocks := blocks, maxEntries := maxEntries, maxLength := maxLength, threshold := threshold,
                companion := if present = 0 then none else some companion, nextSeq := 0, messages := [], waitList := [] })
      (h.createQueue l rq c base blocks maxEntries maxLength threshold present companion)) := by
  simp only [refusal, checks, body, firstFailing_append, createQueue]
  rcases h.create_cases l c with ⟨e, f, k⟩ | ⟨f, i, free, before, k⟩
  · rw [f, k]; exact ⟨fun _ e => by cases e; rfl, fun e => nomatch e⟩
  · rw [f, k]
    have ok : queueFieldsOk base blocks maxEntries maxLength present = false ↔
        ((blocks = 0 ∨ 64 < blocks ∨ 256 < base + blocks ∨ maxEntries = 0 ∨ 256 < maxLength ∨ 1 < present) ∨
          64 * blocks < footprint maxLength) := by
      rw [← Bool.not_eq_true]
      have bytes : Config.blockBytes * blocks = 64 * blocks := rfl
      simp only [queueFieldsOk, Bool.and_eq_true, decide_eq_true_eq]
      omega
    simp only [firstFailing_cons, firstFailing_nil, Option.none_or, decide_eq_true_eq]
    by_cases b : queueFieldsOk base blocks maxEntries maxLength present = false
    · rw [if_pos b]
      rcases ok.1 b with x | x
      · rw [if_pos x]; exact ⟨fun _ e => by cases e; rfl, fun e => nomatch e⟩
      · rw [if_pos x]
        split
        all_goals exact ⟨fun _ e => by cases e; rfl, fun e => nomatch e⟩
    · rw [if_neg b]
      have x := not_or.1 (fun y => b (ok.2 y))
      rw [if_neg x.1, if_neg x.2]
      cases ov : h.overlapsArea base blocks
      · by_cases p : present = 0
        · simp only [p, if_true, Bool.false_eq_true, if_false, firstFailing_nil]
          exact ⟨fun _ e => (nomatch e), fun _ => ⟨i, free, before, rfl⟩⟩
        · simp only [p, Bool.false_eq_true, if_false, Option.none_or]
          rcases h.handle_cases l companion Part.signal? false with ⟨e, f, c⟩ | ⟨f, _, o, g, c, is, ob, pt, acc, live⟩
          · rw [f, c]; exact ⟨fun _ e => by cases e; rfl, fun e => nomatch e⟩
          · rw [f, c]; exact ⟨fun _ e => (nomatch e), fun _ => ⟨i, free, before, rfl⟩⟩
      · simp only [if_true, Option.some_or]
        exact ⟨fun _ e => by cases e; rfl, fun e => nomatch e⟩

/-- A request that fails a check is refused with the first one's code, and that is all (R111). -/
theorem perform_refused {h : Hub} {l : Link} {rq : Request} {code : ResultCode} (ticks : Nat)
    (e : h.refusal l rq = some code) : rq.body.perform ticks l rq h = h.refuse l rq code := by
  rcases b : rq.body with _ | _ | _ | _ | _ | _ | _ | _ | _ | _ | _ | _ | _ | _ | _ | _ | _ | _
  · exact (h.createResource_spec l rq _ _ _ b).1 _ e
  · exact (h.createSignal_spec l rq _ _ _ b).1 _ e
  · exact (h.createQueue_spec l rq _ _ _ _ _ _ _ _ b).1 _ e
  · exact (h.delete_spec l rq _ b).1 _ e
  · exact (h.lookup_spec l rq _ b).1 _ e
  · exact (h.query_spec l rq _ b).1 _ e
  · exact (h.setAccess_spec l rq _ _ b).1 _ e
  · exact (h.reclaimTokens_spec l rq _ b).1 _ e
  · exact (h.acquire_spec ticks l rq _ _ _ _ b).1 _ e
  · exact (h.release_spec l rq _ _ b).1 _ e
  · exact (h.signal_spec l rq _ _ b).1 _ e
  · exact (h.wait_spec ticks l rq _ _ _ b).1 _ e
  · exact (h.cancel_spec l rq _ b).1 _ e
  · exact (h.send_spec l rq _ _ b).1 _ e
  · exact (h.receive_spec ticks l rq _ _ _ b).1 _ e
  · exact (h.flush_spec l rq _ b).1 _ e
  · exact (h.evict_spec l rq _ b).1 _ e
  · exact h.hubReset_refused l rq b _ e

/-! ### Taking an item changes nothing that a request looks at -/

@[simp] theorem slot_takeFrom (h : Hub) (l : Link) (i : Fin 48) : (h.takeFrom l).slot i = h.slot i := rfl
@[simp] theorem objAt_takeFrom (h : Hub) (l : Link) (i : Fin 48) : (h.takeFrom l).objAt i = h.objAt i := rfl
@[simp] theorem slotOf_takeFrom (h : Hub) (l : Link) (hd : Handle) : (h.takeFrom l).slotOf hd = h.slotOf hd := rfl
@[simp] theorem waitListAt_takeFrom (h : Hub) (l : Link) (i : Fin 48) : (h.takeFrom l).waitListAt i = h.waitListAt i := rfl
@[simp] theorem findWaiter_takeFrom (h : Hub) (l : Link) (st : Stamp) : (h.takeFrom l).findWaiter st = h.findWaiter st := rfl
@[simp] theorem manages_takeFrom (h : Hub) (l m : Link) : (h.takeFrom l).manages m = h.manages m := rfl
@[simp] theorem acquireBlocked_takeFrom (h : Hub) (l : Link) (hd : Handle) (amount : Nat) :
    (h.takeFrom l).acquireBlocked hd amount = h.acquireBlocked hd amount := rfl
@[simp] theorem waitBlocked_takeFrom (h : Hub) (l : Link) (hd : Handle) :
    (h.takeFrom l).waitBlocked hd = h.waitBlocked hd := rfl
@[simp] theorem receiveBlocked_takeFrom (h : Hub) (l : Link) (hd : Handle) :
    (h.takeFrom l).receiveBlocked hd = h.receiveBlocked hd := rfl
@[simp] theorem refusal_takeFrom (h : Hub) (l m : Link) (rq : Request) : (h.takeFrom l).refusal m rq = h.refusal m rq := rfl

end Hub

/-- The command of the taken request performs it (the body named). -/
theorem exec_request_of {s : State} {l : Link} {rq : Request} {body : ObjReq} (ticks : Nat)
    (takes : s.toHub.catchUp.Takes l rq) (is : rq.body = body) :
    exec (body.command ticks) s = .next (s.withHub (body.perform ticks l rq (s.toHub.catchUp.takeFrom l))) := by
  rw [← is]; exact exec_request ticks takes

/-- The command of a taken request that fails a check answers the code of the first that fails, and does nothing else. -/
theorem exec_refused {s : State} {l : Link} {rq : Request} {code : ResultCode} (ticks : Nat)
    (takes : s.toHub.catchUp.Takes l rq) (fails : s.toHub.catchUp.refusal l rq = some code) :
    exec (rq.body.command ticks) s = .next (s.withHub ((s.toHub.catchUp.takeFrom l).reply l rq code [] none)) := by
  rw [exec_request ticks takes, Hub.perform_refused ticks (by rw [Hub.refusal_takeFrom]; exact fails)]
  rfl

end Sys2Proof.Machine
end

