-- ==== Sys2Proof/Laws/Engine.lean ====
section
/-! SUPPORT. The engine's shared operations: the records of waiters and their stamps, the wait lists, the grant pass, the
hand-out and the message lists; what each can do. -/

namespace Sys2Proof.Machine

namespace Hub

/-! ### Records by stamp (R44, R45) -/

/-- With distinct stamps a record is found by its stamp. -/
theorem findWaiter_of_mem {h : Hub} {w : Waiter} (distinct : h.StampsDistinct) (mem : w ∈ h.waiters) :
    h.findWaiter w.stamp = some w := by
  unfold findWaiter
  have nodup := distinct.1
  revert mem nodup
  induction h.waiters with
  | nil => intro mem; cases mem
  | cons x xs ih =>
    intro mem nodup
    simp only [List.map_cons, List.nodup_cons] at nodup
    rcases List.mem_cons.1 mem with rfl | mem
    · simp
    · have ne : x.stamp ≠ w.stamp := fun e => nodup.1 (e ▸ List.mem_map_of_mem mem)
      rw [List.find?_cons_of_neg (by simpa using ne)]
      exact ih mem nodup.2

theorem findWaiter_some {h : Hub} {st : Stamp} {w : Waiter} (is : h.findWaiter st = some w) :
    w ∈ h.waiters ∧ w.stamp = st :=
  ⟨List.mem_of_find?_eq_some is, by simpa using List.find?_some is⟩

theorem findWaiter_none {h : Hub} {st : Stamp} (no : h.findWaiter st = none) : ∀ w ∈ h.waiters, w.stamp ≠ st := by
  intro w mem; simpa using List.find?_eq_none.1 no w mem

/-! ### A record that leaves WAITING (R55, R57, R98) -/

/-- The end of a wait: the record's state, and its deadline entry if it has one; nothing else. -/
theorem endWait_spec (h : Hub) (w : Waiter) (st : WaiterState) (msg : Option Half) :
    h.endWait w st msg =
      { h with
        waiters := h.waiters.map (fun x => if x.stamp = w.stamp then { x with state := st, message := msg } else x),
        deadlines := if w.deadline = none then h.deadlines else h.deadlines.filter fun e => decide (e.stamp ≠ w.stamp) } := by
  unfold endWait modWaiter removeClaim
  rcases w.deadline <;> rfl

@[simp] theorem endWait_slots (h : Hub) (w : Waiter) (st : WaiterState) (msg : Option Half) :
    (h.endWait w st msg).slots = h.slots := by rw [endWait_spec]
@[simp] theorem endWait_packetMemory (h : Hub) (w : Waiter) (st : WaiterState) (msg : Option Half) :
    (h.endWait w st msg).packetMemory = h.packetMemory := by rw [endWait_spec]

@[simp] theorem abandon_slots (h : Hub) (st : Stamp) : (h.abandon st).slots = h.slots := by
  unfold abandon; split <;> simp

@[simp] theorem abandons_slots (sts : List Stamp) (h : Hub) : (sts.foldl abandon h).slots = h.slots := by
  induction sts generalizing h with
  | nil => rfl
  | cons st sts ih => rw [List.foldl_cons, ih, abandon_slots]

/-! ### Slots: a read after a write -/

@[simp] theorem setSlot_setSlot (h : Hub) (i : Fin 48) (s t : Slot) : (h.setSlot i s).setSlot i t = h.setSlot i t := by
  simp [setSlot]

@[simp] theorem setSlot_slot (h : Hub) (i : Fin 48) : h.setSlot i (h.slot i) = h := by
  simp [setSlot, slot]

theorem objAt_setPart {h : Hub} {i : Fin 48} {o : Obj} (is : h.objAt i = some o) (p : Part) :
    (h.setPart i p).objAt i = some { o with part := p } := by
  unfold objAt at is ⊢
  unfold setPart modObj
  rw [slot_setSlot_self]
  cases st : (h.slot i).state <;> rw [st] at is <;> simp only [SlotState.obj, Option.some.injEq, reduceCtorEq] at is <;>
    subst is <;> rfl

theorem waitListAt_of_objAt {h : Hub} {i : Fin 48} {o : Obj} (is : h.objAt i = some o) : h.waitListAt i = o.part.waitList := by
  simp only [waitListAt, is]

/-- What stands in a wait list depends on the slots alone. -/
theorem waitListAt_congr {h h' : Hub} (same : h'.slots = h.slots) (i : Fin 48) : h'.waitListAt i = h.waitListAt i := by
  simp only [waitListAt, objAt, slot, same]

/-! ### Wait lists (R51, R52, R53) -/

/-- The place by priority: behind the records of equal or more urgent priority, before the first less urgent one. -/
theorem insertByPriority_spec (prio : Stamp → Nat) (p : Nat) (st : Stamp) (ws : List Stamp) :
    ∃ before behind, ws = before ++ behind ∧ insertByPriority prio p st ws = before ++ st :: behind ∧
      (∀ x ∈ before, prio x ≤ p) ∧ ∀ x, behind.head? = some x → p < prio x := by
  induction ws with
  | nil => exact ⟨[], [], by simp [insertByPriority]⟩
  | cons x xs ih =>
    by_cases le : prio x ≤ p
    · obtain ⟨before, behind, split, ins, urgent, less⟩ := ih
      refine ⟨x :: before, behind, by simp [split], by simp [insertByPriority, le, ins], ?_, less⟩
      intro y mem
      rcases List.mem_cons.1 mem with rfl | mem
      · exact le
      · exact urgent y mem
    · exact ⟨[], x :: xs, rfl, by simp [insertByPriority, le], by simp, by simp; omega⟩

/-- The place of a new waiter, by the object's discipline. -/
theorem insertWaiter_spec (h : Hub) (d : Discipline) (p : Nat) (st : Stamp) (ws : List Stamp) :
    ∃ before behind, ws = before ++ behind ∧ h.insertWaiter d p st ws = before ++ st :: behind ∧
      (d = .arrival → behind = []) ∧
      (d = .priority → (∀ x ∈ before, h.priorityOf x ≤ p) ∧ ∀ x, behind.head? = some x → p < h.priorityOf x) := by
  cases d with
  | arrival => exact ⟨ws, [], by simp, rfl, fun _ => rfl, fun e => nomatch e⟩
  | priority =>
    obtain ⟨before, behind, split, ins, urgent, less⟩ := insertByPriority_spec h.priorityOf p st ws
    exact ⟨before, behind, split, ins, fun e => (nomatch e), fun _ => ⟨urgent, less⟩⟩

/-! ### The grant pass (R27) -/

theorem grantPass_nil {h : Hub} {i : Fin 48} (empty : h.waitListAt i = []) : h.grantPass i = h := by
  simp only [grantPass, empty, grantList]

/-- A turn of the grant pass that grants nothing ends it. -/
theorem grantPass_stop {h : Hub} {i : Fin 48} {st : Stamp} {rest : List Stamp} (list : h.waitListAt i = st :: rest)
    (stop : h.grantHead i st = none) : h.grantPass i = h := by
  simp only [grantPass, list, grantList, stop]

/-- A turn of the grant pass that grants the head is followed by the pass over the rest. -/
theorem grantPass_step {h h' : Hub} {i : Fin 48} {st : Stamp} {rest : List Stamp} (list : h.waitListAt i = st :: rest)
    (step : h.grantHead i st = some h') (left : h'.waitListAt i = rest) : h.grantPass i = h'.grantPass i := by
  simp only [grantPass, list, grantList, step, left]

theorem grant_slots (h : Hub) (w : Waiter) : (h.grant w).slots = h.slots := by simp [grant]

/-- One turn of the grant pass: what the head waiter takes is taken, it leaves the list, and it is granted. -/
theorem grantHead_eq {h : Hub} {i : Fin 48} {o : Obj} {st : Stamp} {w : Waiter} (is : h.objAt i = some o)
    (found : h.findWaiter st = some w) : h.grantHead i st = (grantedPart w o.part).map fun p => (h.setPart i p).grant w := by
  simp only [grantHead, is, found]

/-- The wait list after a turn that granted the head. -/
theorem waitListAt_granted {h : Hub} {i : Fin 48} {o : Obj} {p : Part} (is : h.objAt i = some o) (w : Waiter) :
    ((h.setPart i p).grant w).waitListAt i = p.waitList := by
  rw [waitListAt_congr (grant_slots _ w) i, waitListAt_of_objAt (objAt_setPart is p)]

end Hub
end Sys2Proof.Machine
end

