-- ==== Sys2Proof/Laws/Frames.lean ====
section
/-! SUPPORT. The assembler takes coded bytes back to the bytes they code; a delimiter that closes a good frame; what a good
frame does at its link. -/

namespace Sys2Proof.Machine

theorem saturate16_eq (n : Nat) : saturate16 n = min (n + 1) 65535 := by
  unfold saturate16 Config.counterMax; split <;> omega

theorem saturate8_eq (n : Nat) (le : n ≤ 255) : saturate8 n = min (n + 1) 255 := by
  unfold saturate8; split <;> omega

/-! ### The line coding (R122, R126) -/

/-- The coded form of one byte leaves the assembler with that byte appended. -/
theorem LinkState.take_stuffByte (k : LinkState) (b : Byte) (asm : k.asm = .collecting) (room : k.buffer.length < 306) :
    (stuffByte b).foldl LinkState.takeCharacter k = { k with asm := .collecting, buffer := k.buffer ++ [b] } := by
  unfold stuffByte
  split
  · rename_i e; subst e
    simp [LinkState.takeCharacter, asm, delimiter, escapeByte, LinkState.collect, Config.maxFrame, room]
  · split
    · rename_i e; subst e
      simp [LinkState.takeCharacter, asm, delimiter, escapeByte, LinkState.collect, Config.maxFrame, room]
    · simp [LinkState.takeCharacter, LinkState.collect, Config.maxFrame, *]

/-- The coded form of a run of bytes leaves the assembler with those bytes appended. -/
theorem LinkState.take_stuff (bs : List Byte) (k : LinkState) (asm : k.asm = .collecting)
    (room : k.buffer.length + bs.length ≤ 306) :
    (stuff bs).foldl LinkState.takeCharacter k = { k with asm := .collecting, buffer := k.buffer ++ bs } := by
  induction bs generalizing k with
  | nil => simp [stuff, ← asm]
  | cons b bs ih =>
    simp only [List.length_cons] at room
    have split : stuff (b :: bs) = stuffByte b ++ stuff bs := rfl
    rw [split, List.foldl_append, take_stuffByte _ _ asm (by omega), ih _ rfl (by simp; omega)]
    simp

/-! ### A good frame (R130, R141, R161, R163) -/

/-- The command of the frame that a delimiter closes hands that frame to the session logic. -/
theorem exec_command {s : State} {l : Link} {f : RxFrame} (closes : s.toHub.catchUp.ClosesOn l f) :
    exec (f.command l) s =
      .next (s.withHub ((s.toHub.catchUp.modLink l fun k => { k with buffer := [] }).goodFrame l f)) := by
  obtain ⟨asm, ok⟩ := closes
  have close : s.toHub.catchUp.closeFrame l = (s.toHub.catchUp.modLink l fun k => { k with buffer := [] }).goodFrame l f := by
    simp only [Hub.closeFrame, ok]
  rw [← close]
  have good : ∀ sort : Option ReqKind → Bool, sort (ReqKind.ofCode f.kind) = true →
      s.toHub.catchUp.closeGood l sort = s.toHub.catchUp.closeFrame l := by
    intro sort is
    simp only [Hub.closeGood, Hub.closesGood, asm, ok, is, if_true]
  simp only [RxFrame.command]
  rcases kind : ReqKind.ofCode f.kind with _ | r
  · simp only [exec, execUnknownKind]; rw [State.onHub_next, good _ (by simp [kind])]
  · cases r <;> simp only [exec, execHello, execBye, execPing, execLinkStatus, execObjectRequest] <;>
      rw [State.onHub_next, good _ (by simp [kind, ReqKind.engineBound])]

theorem LinkState.restartKeepalive_eq (k : LinkState) :
    ({ k with buffer := [] } : LinkState).restartKeepalive = k.frameClosed := by
  simp only [restartKeepalive, frameClosed]; split <;> rfl

theorem LinkState.freeSlot_of_lowestFree {k : LinkState} {i : Fin 4} (lowest : k.LowestFree i) : k.freeSlot = some i := by
  obtain ⟨free, held⟩ := lowest
  have h0 := held 0; have h1 := held 1; have h2 := held 2
  match i with
  | 0 => simp_all [freeSlot]
  | 1 => simp_all [freeSlot]
  | 2 => simp_all [freeSlot]
  | 3 => simp_all [freeSlot]

theorem LinkState.freeSlot_of_windowFull {k : LinkState} (full : k.WindowFull) : k.freeSlot = none := by
  have h0 := full 0; have h1 := full 1; have h2 := full 2; have h3 := full 3
  simp_all [freeSlot]

/-- A good frame at an IDLE or ACTIVE link with a free slot is served in the lowest one. -/
theorem Hub.goodFrame_serve {h : Hub} {l : Link} {i : Fin 4} (f : RxFrame) (notEnding : (h.link l).session ≠ .ending)
    (lowest : (h.link l).LowestFree i) :
    (h.modLink l fun k => { k with buffer := [] }).goodFrame l f = (h.setLink l ((h.link l).accepted i)).serve l i f := by
  have free : (h.link l).frameClosed.freeSlot = some i := LinkState.freeSlot_of_lowestFree lowest
  simp only [goodFrame, link_modLink_self, modLink_modLink, LinkState.restartKeepalive_eq, free]
  rw [if_neg notEnding]
  rfl

/-- A good frame at an IDLE or ACTIVE link without a free slot is an overrun. -/
theorem Hub.goodFrame_overrun {h : Hub} {l : Link} (f : RxFrame) (notEnding : (h.link l).session ≠ .ending)
    (full : (h.link l).WindowFull) :
    (h.modLink l fun k => { k with buffer := [] }).goodFrame l f = h.setLink l (h.link l).frameClosed.overrun := by
  have free : (h.link l).frameClosed.freeSlot = none := LinkState.freeSlot_of_windowFull full
  simp only [goodFrame, link_modLink_self, modLink_modLink, LinkState.restartKeepalive_eq, free]
  rw [if_neg notEnding]
  rfl

/-- A good frame at an ENDING link. -/
theorem Hub.goodFrame_ending {h : Hub} {l : Link} (f : RxFrame) (ending : (h.link l).session = .ending) :
    (h.modLink l fun k => { k with buffer := [] }).goodFrame l f =
      (h.modLink l fun k => { k with buffer := [] }).goodFrameEnding l f := by
  simp only [goodFrame, link_modLink_self]
  rw [if_pos ending]

end Sys2Proof.Machine
end

