-- ==== Sys2Proof/Laws/Purge.lean ====
section
/-! SUPPORT. The purge: what the removal of a link's waiters does to a slot's wait list and to the deadline list, the order in
which the slots are visited, and that a hand-out keeps its queue's object. -/

namespace Sys2Proof.Machine.Hub

/-- The removals of several deadline entries, claimed one after another (R98). -/
theorem removeClaims_eq (sts : List Stamp) (h : Hub) :
    sts.foldl removeClaim h = { h with deadlines := h.deadlines.filter fun e => decide (e.stamp ∉ sts) } := by
  induction sts generalizing h with
  | nil => simp
  | cons st sts ih =>
    rw [List.foldl_cons, ih]
    simp only [removeClaim, List.filter_filter]
    congr 1
    apply List.filter_congr
    intro e _
    simp [Bool.and_comm, not_or]

/-- The link's waiters leave the slot's wait list, whose other records keep their order, and their entries the deadline list
(R38, R87). -/
theorem purgeWaiters_eq (h : Hub) (l : Link) (i : Fin 48) :
    let mine (st : Stamp) : Bool := (h.findWaiter st).any fun w => decide (w.link = l)
    h.purgeWaiters l i =
      { h.setWaitListAt i ((h.waitListAt i).filter fun st => !mine st) with
          deadlines := h.deadlines.filter fun e => decide (e.stamp ∉ (h.waitListAt i).filter mine) } := by
  intro mine
  let inner (st : Stamp) : Bool := match h.findWaiter st with | some w => decide (w.link = l) | none => false
  have same : inner = mine := by
    funext st
    simp only [mine, inner]
    cases h.findWaiter st <;> rfl
  show ((h.waitListAt i).filter inner).foldl removeClaim (h.setWaitListAt i ((h.waitListAt i).filter fun st => !inner st)) = _
  rw [removeClaims_eq, same]
  rfl

/-- The visits to the slots as one fold, with the companions called for gathered in the order of the slots (R90, R113). -/
theorem purgeSlots_eq (l : Link) (is : List (Fin 48)) (h : Hub) (marked : List Handle) :
    is.foldl (fun p i => ((purgeSlot l p.1 i).1, p.2 ++ (purgeSlot l p.1 i).2.toList)) (h, marked) =
      ((purgeSlots l is h).1, marked ++ (purgeSlots l is h).2) := by
  induction is generalizing h marked with
  | nil => simp [purgeSlots]
  | cons i is ih => rw [List.foldl_cons, ih]; simp [purgeSlots]

/-- The steps of a purge item in their order (R113). -/
theorem purge_eq (h : Hub) (l : Link) :
    h.purge l =
      (let visited := slotNumbers.foldl
        (fun (p : Hub × List Handle) i => ((purgeSlot l p.1 i).1, p.2 ++ (purgeSlot l p.1 i).2.toList)) (h, [])
       (visited.2.foldl signalCompanion
          { visited.1 with waiters := visited.1.waiters.filter fun w => decide (w.link ≠ l) }).purgeCompletion l) := by
  have key := purgeSlots_eq l slotNumbers h []
  rw [List.nil_append] at key
  simp only [key, purge]

/-- A LIVE slot's part set after the waiters were removed is the part set at once: the wait list stands in the part. -/
theorem setPart_purged {h : Hub} {i : Fin 48} {o : Obj} (live : (h.slot i).state = .live o) (ws : List Stamp)
    (entries : List DeadlineEntry) (p : Part) :
    ({ h.setWaitListAt i ws with deadlines := entries } : Hub).setPart i p =
      ({ h with deadlines := entries } : Hub).setLive i o p := by
  have slot : ({ h.setWaitListAt i ws with deadlines := entries } : Hub).slot i =
      { h.slot i with state := .live { o with part := o.part.setWaitList ws } } := by
    show (h.setWaitListAt i ws).slot i = _
    simp [setWaitListAt, modObj, live, SlotState.modObj]
  rw [setPart_live (o := { o with part := o.part.setWaitList ws }) (by rw [slot])]
  simp only [setLive]
  rw [slot]
  simp only [setSlot, setWaitListAt, modObj]
  congr 1
  simp [Hub.slot]

/-- A hand-out changes of its queue's object nothing but the queue (R89). -/
theorem objAt_handOut {i : Fin 48} {o : Obj} (sts : List Stamp) : ∀ {h : Hub} {q : Queue},
    h.objAt i = some { o with part := .queue q } →
      ∃ q', (handOut i sts h).objAt i = some { o with part := .queue q' } := by
  induction sts with
  | nil => exact fun is => ⟨_, is⟩
  | cons st rest ih =>
    intro h q is
    rw [handOut]
    simp only [is, Option.bind_some, Part.queue?]
    rcases h.findWaiter st with _ | w
    · exact ⟨q, is⟩
    · dsimp only
      rcases Queue.claimOldest ⟨w.link, w.session, .notice⟩ q.messages with _ | ⟨m, ms⟩
      · exact ⟨q, is⟩
      · refine ih (q := { q with messages := ms, waitList := q.waitList.tail }) ?_
        have set := objAt_setPart is (.queue { q with messages := ms, waitList := q.waitList.tail })
        rw [← set]
        unfold objAt Hub.slot
        simp [deliver]

end Sys2Proof.Machine.Hub
end

