-- ==== Sys2Proof/Tests/Slice0.lean ====
section
/-! SUPPORT. The model's own tests: the checks of well-formedness refuse ill-formed bodies; a few values of the manual; and
for every statement that has hypotheses a state and operands that meet them all together. -/

namespace Sys2Proof.Machine.Tests

/-! ### Small states -/

/-- A link in an ACTIVE session 1 whose assembler hunts. -/
def active : LinkState := { LinkState.reset false with asm := .hunt, session := .active, sessionNo := 1, sessionsBegun := 1 }

/-- The same with the MANAGE right. -/
def managing : LinkState := { active with manage := true }

/-- A link in IDLE whose assembler hunts. -/
def idling : LinkState := { LinkState.reset false with asm := .hunt }

/-- A hub fresh from reset but for link A. -/
def hubOf (k : LinkState) : Hub := (Hub.reset Straps.low).setLink .a k

/-- A state with an empty command queue. -/
def stateOf (h : Hub) : State := { toHub := h, pending := [] }

/-- A link whose assembler has collected the bytes of a frame up to its closing delimiter. -/
def heard (k : LinkState) (f : RxFrame) : LinkState :=
  { k with asm := .collecting, buffer := frameBytes f.kind f.tag f.status f.flags f.body }

/-- A frame with a clean header. -/
def frame (kind : Byte) (body : List Byte) : RxFrame := { kind := kind, tag := 7, status := 0, flags := 0, body := body }

/-- A link that holds all its service slots. -/
def full (k : LinkState) : LinkState := { k with window := Vector.replicate 4 (some 1) }

/-- An object of link A, open to all links. -/
def obj (p : Part) : Obj := { name := some [0x41], creator := .a, access := 0xF, discipline := .priority, part := p }

/-- A hub whose slot 0 holds a LIVE object. -/
def live (k : LinkState) (p : Part) : Hub := (hubOf k).setSlot 0 { gen := 1, state := .live (obj p) }

def hd : Handle := { slot := 0, gen := 1 }

/-- A request of link A's session 1. -/
def req (b : ObjReq) : Request := { tag := 9, session := 1, slot := 0, body := b }

/-- The hub with items on link A's intake. -/
def holding (h : Hub) (items : List Item) : State := stateOf (h.setIntake .a items)

/-- A request stands at the head of link A's intake. -/
def asking (h : Hub) (b : ObjReq) : State := holding h [.request (req b)]

/-- The engine takes this request next, and no check of it fails. -/
abbrev Passes (h : Hub) (b : ObjReq) : Prop :=
  (asking h b).toHub.catchUp.Takes .a (req b) ∧ (asking h b).toHub.catchUp.refusal .a (req b) = none

/-- The engine takes this request next, and its first failing check gives this code. -/
abbrev Fails (h : Hub) (b : ObjReq) (code : ResultCode) : Prop :=
  (asking h b).toHub.catchUp.Takes .a (req b) ∧ (asking h b).toHub.catchUp.refusal .a (req b) = some code

def resource : Resource :=
  { limit := 2, available := 2, holdings := PerLink.all 0, stranded := 0, robust := false, waitList := [] }

/-- A RESOURCE of which link A holds one token and one is stranded. -/
def lent : Resource := { resource with available := 0, holdings := ⟨1, 0, 0, 0⟩, stranded := 1 }

def gate : Signal := { limit := 3, count := 1, waitList := [] }

def queue : Queue :=
  { base := 0, blocks := 1, maxEntries := 2, maxLength := 32, threshold := 1, companion := none, nextSeq := 0,
    messages := [], waitList := [] }

def message : Message := { seq := 0, length := 1, offset := 0, state := .ready, deliveries := 0 }

/-- A queue with one READY message. -/
def filled : Queue := { queue with nextSeq := 1, messages := [message] }

/-- A message that link A's session 1 has claimed by a response. -/
def claimed : Message := { message with state := .claimed ⟨.a, 1, .response⟩, deliveries := 1 }

/-- A waiter of link B on slot 0. -/
def waiter (op : WaitOp) (amount : Nat) : Waiter :=
  { link := .b, session := 1, tag := 3, object := hd, op := op, amount := amount, priority := 0, deadline := some 5,
    stamp := 1, state := .waiting, message := none }

/-- The same waiter, of link A. -/
def ownWaiter : Waiter := { waiter .wait 1 with link := .a }

/-- A hub with one record in use. -/
def waitingOn (h : Hub) (w : Waiter) : Hub := { h with waiters := [w], stampCounter := 1, deadlines := [⟨1, 5⟩] }

/-! ### Well-formedness: an ill-formed body for each check of R178 -/

theorem test_wellFormed_hello : bodyWellFormed .hello [1, 0, 0, 2, 65, 66] = true := by decide

theorem test_illFormed_labelLength : bodyWellFormed .hello [1, 0, 0, 9, 65, 65, 65, 65, 65, 65, 65, 65, 65] = false := by decide

theorem test_illFormed_labelBytesMissing : bodyWellFormed .hello [1, 0, 0, 3, 65, 66] = false := by decide

theorem test_illFormed_lengthByteMissing : bodyWellFormed .lookup [] = false := by decide

theorem test_illFormed_fixedLength : bodyWellFormed .acquire [1, 0, 1, 0, 0] = false := by decide

theorem test_illFormed_sendTooShort : bodyWellFormed .send [1] = false := by decide

theorem test_illFormed_sendTooLong : bodyWellFormed .send (List.replicate 259 0) = false := by decide +kernel

theorem test_wellFormed_sendBounds :
    bodyWellFormed .send [1, 0] = true ∧ bodyWellFormed .send (List.replicate 258 0) = true := by decide +kernel

/-! ### Values the manual gives -/

/-- Every kind byte of R177 names its kind, and no other byte names one. -/
theorem test_kindCodes : (∀ k ∈ ReqKind.all, ReqKind.ofCode k.code = some k) ∧ ReqKind.ofCode 0x00 = none ∧
    ReqKind.ofCode 0x07 = none ∧ ReqKind.ofCode 0x18 = none ∧ ReqKind.ofCode 0x25 = none ∧ ReqKind.ofCode 0x33 = none := by
  decide

theorem test_decodeTableWord : decodeTableWord 8 0 = none := rfl

theorem test_tickDue_bounds : tickDue 0 2147483647 = true ∧ tickDue 0 2147483648 = false ∧ tickDue 5 5 = true ∧
    tickEarlier 5 5 = false ∧ tickEarlier 0 2147483647 = true ∧ tickEarlier 0 2147483648 = false := by decide

/-- The longest timeout, at the last count at which its deadline is still due. -/
theorem test_witness_tickRelations : 1 ≤ 60000 ∧ 60000 + 2147483647 < 60000 + 2147483648 ∧
    tickDue (7 + BitVec.ofNat 32 60000) (7 + BitVec.ofNat 32 (60000 + 2147483647)) = true ∧
    tickDue (7 + BitVec.ofNat 32 60000) (7 + BitVec.ofNat 32 59999) = false := by decide

theorem test_footprint : footprint 0 = 4 ∧ footprint 1 = 8 ∧ footprint 4 = 8 ∧ footprint 256 = 260 := by decide

theorem test_wraps : nextSessionNo 254 = 255 ∧ nextSessionNo 255 = 1 ∧ nextGen 255 = 1 ∧ saturate16 65535 = 65535 := by
  decide

/-- The closing checks, one buffer for each verdict: 7 bytes, a wrong CRC, a wrong length, a good frame. -/
theorem test_closingCheck : closingCheck [3, 7, 0, 0, 0, 0, 0] = .error .shortFrame ∧
    closingCheck [3, 7, 0, 0, 0, 0, 0, 0] = .error .crcMismatch ∧
    closingCheck ([3, 7, 0, 0, 0, 1] ++ bytes16 (crc [3, 7, 0, 0, 0, 1]).toNat) = .error .lengthDisagreement ∧
    closingCheck (frameBytes 3 7 0 0 []) = .ok (frame 3 []) := by decide +kernel

/-- A name of no byte and one of eight fit the layouts; so does a label. -/
theorem test_witness_layouts : ([] : List Byte).length ≤ 8 ∧ (List.replicate 8 (0x41 : Byte)).length ≤ 8 ∧
    requestOf .acquire 7 [1, 2, 3, 4, 0xEA, 0x60] = .object (.acquire { slot := 2, gen := 1 } 3 4 60000) := by decide

/-! ### Witnesses: reset, the timebase, the queue -/

theorem test_witness_idle : State.reset.pending = [] := rfl

theorem test_witness_catchesUp : (Instr.ping .a).catchesUp = true ∧ Instr.catchesUp .purge = true := by decide

/-! ### Witnesses: the assembler -/

/-- Each state and each sort of character, the full buffer of 306 bytes and the last free place among them. -/
theorem test_witness_goodCharacter :
    (∀ k ∈ [LinkState.reset false, idling, { idling with asm := .collecting }, { idling with asm := .escaped, buffer := [1] }],
      ∀ v ∈ [0x9C, 0x9D, 0xBC, 0xBD, (0 : Byte)],
        ¬ (((stateOf (hubOf k)).toHub.catchUp.link .a).asm = .collecting ∧
          ((stateOf (hubOf k)).toHub.catchUp.link .a).buffer ≠ [] ∧ v = 0x9C)) ∧
    ∀ n ∈ [305, 306],
      ¬ (((stateOf (hubOf { idling with asm := .collecting, buffer := List.replicate n 0 })).toHub.catchUp.link .a).asm
          = .collecting ∧
        ((stateOf (hubOf { idling with asm := .collecting, buffer := List.replicate n 0 })).toHub.catchUp.link .a).buffer ≠ [] ∧
        (0 : Byte) = 0x9C) := by decide +kernel

theorem test_witness_closing :
    (let k := (stateOf (hubOf { idling with asm := .collecting, buffer := [1] })).toHub.catchUp.link .a
     k.asm = .collecting ∧ k.buffer ≠ [] ∧ closingCheck k.buffer = .error .shortFrame) ∧
    (let k := (stateOf (hubOf (heard idling (frame 3 [])))).toHub.catchUp.link .a
     k.asm = .collecting ∧ k.buffer ≠ [] ∧ closingCheck k.buffer = .ok (frame 3 [])) := by decide +kernel

theorem test_witness_receiveError :
    (let k := (stateOf (hubOf { idling with asm := .escaped, buffer := List.replicate 306 0 })).toHub.catchUp.link .a
     k.asm = .escaped ∧ 306 ≤ k.buffer.length) ∧
    ((stateOf (hubOf { idling with asm := .settling })).toHub.catchUp.link .a).asm = .settling := by decide +kernel

/-- The row of a frame while nothing is collected, and the row of another kind's frame while one stands closed; each state in
which an error's cause cannot arise. -/
theorem test_witness_cannotOccur :
    (∀ f, (stateOf (hubOf idling)).toHub.catchUp.ClosesOn .a f → f.command .a ≠ .ping .a) ∧
    (∀ f, (stateOf (hubOf (heard idling (frame 3 [])))).toHub.catchUp.ClosesOn .a f → f.command .a ≠ .bye .a) ∧
    (let k := (stateOf (hubOf { idling with buffer := List.replicate 305 0 })).toHub.catchUp.link .a
     k.asm ≠ .escaped ∧ k.asm ≠ .settling ∧ k.buffer.length < 306 ∧ k.asm ≠ .collecting) ∧
    closingCheck ((stateOf (hubOf (heard idling (frame 3 [])))).toHub.catchUp.link .a).buffer ≠ .error .crcMismatch := by
  refine ⟨?_, ?_, by decide +kernel, by decide +kernel⟩
  · rintro f ⟨asm, -⟩
    exact absurd asm (by decide)
  · rintro f ⟨-, good⟩
    have same : closingCheck ((stateOf (hubOf (heard idling (frame 3 [])))).toHub.catchUp.link .a).buffer = .ok (frame 3 []) := by
      decide +kernel
    cases same.symm.trans good
    decide

theorem test_witness_transmitted : idling.asm = .hunt ∧ (List.replicate 298 (0x9C : Byte)).length ≤ 298 := by decide +kernel

/-! ### Witnesses: sessions and the frames the link answers -/

/-- A delimiter closes this frame on link A, which is not ENDING and has slot 0 free. -/
abbrev Served (k : LinkState) (f : RxFrame) (session : SessionState) : Prop :=
  (stateOf (hubOf (heard k f))).toHub.catchUp.ClosesOn .a f ∧
    ((stateOf (hubOf (heard k f))).toHub.catchUp.link .a).session = session ∧
    ((stateOf (hubOf (heard k f))).toHub.catchUp.link .a).LowestFree 0

theorem test_witness_refusedFrames :
    (Served active (frame 0x07 []) .active ∧ ReqKind.ofCode 0x07 = none) ∧
    (Served active { frame 0x03 [] with status := 1 } .active ∧ ReqKind.ofCode 0x03 = some .ping) ∧
    (Served active (frame 0x03 [0]) .active ∧ bodyWellFormed .ping [0] = false) ∧
    (Served idling (frame 0x03 []) .idle ∧ bodyWellFormed .ping [] = true) := by decide +kernel

/-- The last slot is the lowest free one when the three before it are held. -/
theorem test_witness_lowestFree :
    ({ active with window := (Vector.replicate 4 (some 1)).set 3 none } : LinkState).LowestFree 3 := by decide

theorem test_witness_noSlot :
    ((stateOf (hubOf (heard (full active) (frame 0x03 [])))).toHub.catchUp.ClosesOn .a (frame 0x03 []) ∧
      ((stateOf (hubOf (heard (full active) (frame 0x03 [])))).toHub.catchUp.link .a).WindowFull) ∧
    Served { active with session := .ending } (frame 0x01 [1, 0, 0, 0]) .ending ∧
    bodyWellFormed .hello [1, 0, 0, 0] = true := by decide +kernel

/-- HELLO with the intervals 0, 100 and 60,000 in IDLE, and with version 2, 99 and 60,001 in IDLE and ACTIVE. -/
theorem test_witness_hello :
    (∀ body ∈ [[1, 0, 0, 0], [1, 0, 100, 0], [1, 0xEA, 0x60, 1, (65 : Byte)]],
      Served idling (frame 0x01 body) .idle ∧ Served active (frame 0x01 body) .active ∧ bodyWellFormed .hello body = true) ∧
    ∀ body ∈ [[2, 0, 0, 0], [1, 0, 99, 0], [1, 0xEA, 0x61, (0 : Byte)]],
      Served idling (frame 0x01 body) .idle ∧ Served active (frame 0x01 body) .active ∧ bodyWellFormed .hello body = true := by
  decide +kernel

theorem test_witness_answered :
    Served active (frame 0x02 []) .active ∧ Served active (frame 0x03 []) .active ∧
    Served active (frame 0x04 [3]) .active ∧ Served active (frame 0x04 [4]) .active ∧
    Served active (frame 0x04 [0]) .active ∧ Served managing (frame 0x04 [3]) .active ∧
    linkNumber .d = (3 : Byte).toNat := by decide +kernel

theorem test_witness_objectRequest :
    Served active (frame 0x24 [5]) .active ∧ ReqKind.ofCode 0x24 = some .cancel ∧ ReqKind.engineBound .cancel = true ∧
    bodyWellFormed .cancel [5] = true ∧ requestOf .cancel 7 [5] = .object (.cancel 5) := by decide +kernel

theorem test_witness_teardown :
    ((stateOf (hubOf active)).toHub.catchUp.link .a).teardown = none ∧
    ∀ cause ∈ [EndCause.bye, .lineBreak],
      ((stateOf (hubOf { active with session := .ending, teardown := some ⟨cause, 0, false⟩ })).toHub.catchUp.link .a).teardown
        = some ⟨cause, 0, false⟩ := by decide

/-- A notice on the transmit list. -/
def item (c : TxClass) : TxItem :=
  { cls := c, frame := { kind := 0xC0, tag := 0, status := 0, body := [] }, session := none, msg := none }

theorem test_witness_transmission :
    (∀ c ∈ [TxClass.response 3, .waiterNotice 1, .sessionNotice], ∀ rest ∈ [[0x9C], [0x9D, 0xBC, (0x9C : Byte)]],
      let k := (stateOf (hubOf { active with txList := [item c], tx := some ⟨true, rest⟩ })).toHub.catchUp.link .a
      k.tx = some ⟨true, rest⟩ ∧ k.txList = [item c] ∧ k.teardown = none) ∧
    active.txList = [] := by decide

/-- A completion while a session end is outstanding: the closing delimiter in progress, and two characters to go; and none
in transmission. -/
theorem test_witness_completionAtSessionEnd :
    (∀ rest ∈ [[(0x9C : Byte)], [0x41, 0x9C]],
      let ending : LinkState := { active with session := .ending, teardown := some ⟨.bye, 0, false⟩ }
      let k := (stateOf (hubOf
        { ending with txList := [item (.response 0)], tx := some ⟨false, rest⟩ })).toHub.catchUp.link .a
      k.tx = some ⟨false, rest⟩ ∧ k.txList = [item (.response 0)] ∧ k.teardown ≠ none) ∧
    ((stateOf (hubOf active)).toHub.catchUp.link .a).tx = none := by decide

/-- A frame that completes in a session end is remembered, and SESSION_ENDED then begins without a delimiter of its own; with
no such frame it begins with one. -/
theorem test_sessionEndedSharesDelimiter :
    (let k : LinkState := { active with session := .ending, txList := [item .sessionNotice], tx := some ⟨false, [0x9C]⟩,
                                        teardown := some ⟨.bye, 7, false⟩ }
     ((hubOf k).frameCompletes .a).link .a =
       { k with txList := [], tx := none, wire := [0x9C], teardown := some ⟨.bye, 7, true⟩ }) ∧
    ((active.takeDown ⟨.bye, 7, true⟩).1.tx.bind fun x => x.rest.head?) = some 0xC8 ∧
    ((active.takeDown ⟨.bye, 7, false⟩).1.tx.bind fun x => x.rest.head?) = some 0x9C := by decide +kernel

/-- A frame to be cut after its escape character, and one to be completed. -/
theorem test_witness_stopFrame :
    ∀ x ∈ [(⟨true, 0x9D, [0xBC, 0x9C]⟩ : Bool × Byte × List Byte), ⟨true, 0x41, [0x9C]⟩, ⟨false, 0x9C, []⟩],
      let k : LinkState := { active with txList := [item .sessionNotice], tx := some ⟨x.1, x.2.1 :: x.2.2⟩ }
      k.tx = some ⟨x.1, x.2.1 :: x.2.2⟩ ∧ k.txList = item .sessionNotice :: [] := by decide

theorem test_witness_engineOutput : active.session = .active ∧ active.sessionNo = 1 ∧ idling.session ≠ .active := by decide

/-! ### Witnesses: the arbiter and the requests -/

/-- The first source after the remembered one, and the last. -/
theorem test_witness_arbiter :
    (holding (hubOf active) [.purge]).toHub.remembered = .timebase ∧ (holding (hubOf active) [.purge]).toHub.intake .a ≠ [] ∧
    ({ hubOf active with remembered := .link .a, expiryIntake := [1] } : Hub).intake .b = [] ∧
    (holding (hubOf active) [.purge]).toHub.turn.map (Turn.command 0) ≠ some (.acquire 0) := by decide

theorem test_witness_refused :
    Fails (hubOf active) (.query { slot := 48, gen := 1 }) .badHandle ∧ Fails (hubOf active) (.query hd) .stale ∧
    Fails (live active (.signal gate)) (.release hd 1) .wrongKind ∧
    Fails (live active (.resource resource)) (.release hd 1) .notHeld ∧
    Fails (live active (.resource resource)) (.acquire hd 3 0 0) .badAmount ∧
    Fails (live active (.resource lent)) (.acquire hd 1 0 0) .unavailable ∧
    Fails (live active (.queue queue)) (.send hd (List.replicate 33 0)) .tooLong ∧
    Fails (hubOf active) .hubReset .denied := by decide +kernel

theorem test_witness_creates :
    Passes (hubOf active) (.createResource ⟨[0x41], 0xF, 0⟩ 255 1) ∧
    Passes (hubOf active) (.createSignal ⟨[], 1, 1⟩ 1 1) ∧
    Passes (hubOf active) (.createQueue ⟨[], 1, 1⟩ 255 1 1 60 0 0 hd) ∧
    Passes (live active (.signal gate)) (.createQueue ⟨[], 1, 1⟩ 192 64 255 256 1 1 hd) := by decide +kernel

theorem test_witness_objects :
    Passes (live active (.resource resource)) (.lookup [0x41]) ∧ Passes (live active (.queue queue)) (.query hd) ∧
    Passes (live active (.signal gate)) (.setAccess hd 0xF) ∧ Passes (live active (.resource resource)) (.delete hd) ∧
    Passes (live active (.signal gate)) (.delete hd) ∧
    Passes (live active (.queue { queue with nextSeq := 1, messages := [claimed] })) (.delete hd) := by decide +kernel

theorem test_witness_abandon :
    let h := waitingOn (live active (.signal { gate with count := 0, waitList := [1] })) (waiter .wait 1)
    h.StampsDistinct ∧ waiter .wait 1 ∈ h.waiters := by decide

/-- At once: all that is available, and the last event. -/
theorem test_witness_granted :
    (Passes (live active (.resource resource)) (.acquire hd 2 7 0) ∧
      (asking (live active (.resource resource)) (.acquire hd 2 7 0)).toHub.catchUp.acquireBlocked hd 2 = false) ∧
    Passes (live active (.signal gate)) (.wait hd 0 65535) ∧
    (asking (live active (.signal gate)) (.wait hd 0 65535)).toHub.catchUp.waitBlocked hd = false := by decide +kernel

theorem test_witness_blocked :
    (Passes (live active (.resource lent)) (.acquire hd 1 0 60000) ∧
      (asking (live active (.resource lent)) (.acquire hd 1 0 60000)).toHub.catchUp.acquireBlocked hd 1 = true) ∧
    (Passes (live active (.signal { gate with count := 0 })) (.wait hd 0 1) ∧
      (asking (live active (.signal { gate with count := 0 })) (.wait hd 0 1)).toHub.catchUp.waitBlocked hd = true) ∧
    Passes (live active (.queue queue)) (.receive hd 0 65535) ∧
    (asking (live active (.queue queue)) (.receive hd 0 65535)).toHub.catchUp.receiveBlocked hd = true := by decide +kernel

/-- The hub after a command. -/
def after (c : Instr) (s : State) : Hub :=
  match exec c s with
  | .next t => t.toHub
  | _ => s.toHub

/-- An ACQUIRE for the one available token, with a timeout of 1, more urgent than the waiter that stands before it. -/
def urgent : State :=
  asking (waitingOn (live active (.resource { resource with available := 1, holdings := ⟨1, 0, 0, 0⟩, waitList := [1] }))
    { waiter .acquire 2 with priority := 5 }) (.acquire hd 1 0 1)

/-- A waiter with timeout 1: with no tick event within the item its entry stands in the deadline list; with one, the deadline
is due at the insert claim and the stamp goes to intake T (R97). -/
theorem test_insertClaim_alreadyDue :
    let asked := asking (live active (.signal { gate with count := 0 })) (.wait hd 0 1)
    ((after (.wait 0) asked).tick = 0 ∧ (after (.wait 0) asked).deadlines = [⟨1, 1⟩] ∧
      (after (.wait 0) asked).expiryIntake = []) ∧
    (after (.wait 1) asked).tick = 1 ∧ (after (.wait 1) asked).deadlines = [] ∧
    (after (.wait 1) asked).expiryIntake = [1] := by decide +kernel

/-- A head ACQUIRE granted within its own item: its entry is removed from the list, but an expiry item that the claim has put
on intake T stays there (R97, R98). -/
theorem test_insertClaim_grantedInItsOwnItem :
    ∀ n ∈ [0, 1], (after (.acquire n) urgent).waiters.map Waiter.state = [.waiting, .granted] ∧
      (after (.acquire n) urgent).deadlines = [⟨1, 5⟩] ∧
      (after (.acquire n) urgent).expiryIntake = (if n = 0 then [] else [2]) := by decide +kernel

theorem test_witness_objAt : (live active (.signal gate)).objAt 0 = some (obj (.signal gate)) := by decide

theorem test_witness_givenBack :
    Passes (live active (.resource lent)) (.release hd 1) ∧ Passes (live active (.signal gate)) (.signal hd 2) ∧
    Passes (live managing (.resource lent)) (.reclaim hd) := by decide +kernel

theorem test_witness_grantPass :
    (let h := waitingOn (live active (.resource { resource with waitList := [1] })) (waiter .acquire 2)
     h.objAt 0 = some (obj (.resource { resource with waitList := [1] })) ∧ h.findWaiter 1 = some (waiter .acquire 2)) ∧
    (let h := live active (.signal { gate with count := 3 })
     h.slotOf hd = some 0 ∧ h.objAt 0 = some (obj (.signal { gate with count := 3 }))) ∧
    (live active (.queue queue)).objAt 0 = some (obj (.queue queue)) := by decide

theorem test_witness_cancel :
    Passes (waitingOn (live active (.signal { gate with count := 0, waitList := [1] })) ownWaiter) (.cancel 3) ∧
    (waitingOn (live active (.signal { gate with count := 0, waitList := [1] })) ownWaiter).slotOf ownWaiter.object = some 0 := by
  decide +kernel

theorem test_witness_records :
    (let s := holding (waitingOn (hubOf active) { waiter .wait 1 with state := .granted }) [.freeWaiter 1]
     s.toHub.catchUp.turn = some (.item .a (.freeWaiter 1)) ∧ s.toHub.catchUp.StampsDistinct) ∧
    (let h := waitingOn (live active (.signal { gate with count := 0, waitList := [1] })) (waiter .wait 1)
     let s := stateOf { h with tick := 5 }
     s.toHub.catchUp.turn = some (.expiry 1) ∧ s.toHub.catchUp.StampsDistinct ∧
       waiter .wait 1 ∈ s.toHub.catchUp.waiters ∧ s.toHub.catchUp.slotOf (waiter .wait 1).object = some 0) := by decide +kernel

/-! ### Witnesses: queues -/

/-- An empty payload, the largest one that fits the area, and one for a waiter. -/
theorem test_witness_send :
    Passes (live active (.queue queue)) (.send hd []) ∧
    Passes (live active (.queue { queue with maxLength := 60 })) (.send hd (List.replicate 60 0)) ∧
    Passes (waitingOn (live active (.queue { queue with waitList := [1] })) (waiter .receive 1)) (.send hd [1]) ∧
    (asking (waitingOn (live active (.queue { queue with waitList := [1] })) (waiter .receive 1)) (.send hd [1])).toHub.catchUp.findWaiter
      1 = some (waiter .receive 1) := by decide +kernel

theorem test_witness_stored_queues : (live active (.queue filled)).QueuesSound := by
  have at0 : ∀ i o, (live active (.queue filled)).objAt i = some o → i = 0 ∧ o = obj (.queue filled) := by
    intro i o is
    by_cases e : i = 0
    · subst e
      have at0 : (live active (.queue filled)).objAt 0 = some (obj (.queue filled)) := by decide
      rw [at0] at is
      exact ⟨rfl, (Option.some.inj is).symm⟩
    · have none : ∀ j : Fin 48, j ≠ 0 → (live active (.queue filled)).objAt j = none := by decide +kernel
      rw [none i e] at is
      cases is
  refine ⟨fun i o q is part => ?_, fun i j oi oj qi qj isi isj _ _ ne => ?_, fun i o drains => ?_⟩
  · obtain ⟨_, rfl⟩ := at0 i o is
    cases part
    unfold Queue.Fits
    decide
  · exact absurd ((at0 i oi isi).1.trans (at0 j oj isj).1.symm) ne
  · have no : ∀ j : Fin 48, (match ((live active (.queue filled)).slot j).state with | .draining _ => true | _ => false) = false := by
      decide +kernel
    have := no i
    rw [drains] at this
    cases this

theorem test_witness_stored : (live active (.queue filled)).MemoryCanonical ∧
    (live active (.queue filled)).objAt 0 = some (obj (.queue filled)) ∧ footprint 52 ≤ filled.freeBytes := by decide

/-- A head waiter and a READY message behind a claimed one; and a head waiter with none READY. -/
theorem test_witness_handOut :
    (let q : Queue := { queue with nextSeq := 2, messages := [claimed] ++ { message with seq := 1, offset := 8 } :: [], waitList := [1] }
     let h := waitingOn (live active (.queue q)) (waiter .receive 1)
     h.objAt 0 = some (obj (.queue q)) ∧ h.findWaiter 1 = some (waiter .receive 1) ∧
       (∀ x ∈ [claimed], x.state ≠ .ready) ∧ ({ message with seq := 1, offset := 8 } : Message).state = .ready) ∧
    ({ queue with waitList := [1] } : Queue).readyCount = 0 := by decide

theorem test_witness_memory :
    (asking (live active (.queue queue)) (.send hd [1])).toHub.catchUp.queueOf hd = some queue ∧
    ∀ k < 4 + [(1 : Byte)].length, 5 ≠ (64 * queue.base + (queue.writeOffset + k) % (64 * queue.blocks)) % 16384 := by
  decide +kernel

theorem test_witness_receive :
    Passes (live active (.queue filled)) (.receive hd 7 0) ∧
    (asking (live active (.queue filled)) (.receive hd 7 0)).toHub.catchUp.receiveBlocked hd = false := by decide +kernel

theorem test_witness_flushAndSpend :
    Passes (live active (.queue filled)) (.flush hd) ∧
    (let s := holding (live active (.queue { filled with messages := [claimed] })) [.spendMessage ⟨hd, 0⟩ 1 .response]
     s.toHub.catchUp.turn = some (.item .a (.spendMessage ⟨hd, 0⟩ 1 .response)) ∧ s.toHub.catchUp.slotOf hd = some 0 ∧
       s.toHub.catchUp.objAt 0 = some (obj (.queue { filled with messages := [claimed] }))) ∧
    ∀ m ∈ (holding (live active (.queue filled)) [.spendMessage ⟨hd, 0⟩ 1 .response]).toHub.catchUp.queueOf hd,
      m.messages.any (fun m => decide (m.seq = 0) && decide (m.state = .claimed ⟨.a, 1, .response⟩)) = false := by
  decide +kernel

/-! ### Witnesses: eviction, hub reset, purge -/

theorem test_witness_evict : Passes (hubOf managing) (.evict (linkNumber .d)) := by decide +kernel

/-- A link whose session end is outstanding. -/
def ending (e : Teardown) : LinkState := { active with session := .ending, teardown := some e }

/-- A HUB_RESET of link A, with link B as given. -/
def resetting (k : LinkState) : State := asking ((hubOf managing).setLink .b k) .hubReset

/-- Carried out, with another link IDLE, ACTIVE with a frame in transmission, and ENDING: with step 2 to come, with a frame
completed by then, after BREAK, and with the purge alone to come and a HELLO held. -/
theorem test_witness_hubReset :
    ∀ k ∈ [idling, { active with txList := [item .sessionNotice], tx := some ⟨false, [0x9C]⟩ }, ending ⟨.bye, 7, false⟩,
        ending ⟨.bye, 7, true⟩, ending ⟨.lineBreak, 0, false⟩,
        { active with session := .ending, heldHello := some ⟨1, 1, 0, []⟩ }],
      (resetting k).toHub.catchUp.Takes .a (req .hubReset) ∧ (resetting k).toHub.catchUp.manages .a = true ∧
      (resetting k).toHub.catchUp.link .b = k := by decide

/-- HUB_RESET at an ENDING link: SESSION_ENDED shares the closing delimiter of a frame completed before, and else has its own. -/
theorem test_hubReset_sharesDelimiter :
    ∀ sent ∈ [true, false],
      let k := (after .hubReset (resetting (ending ⟨.bye, 7, sent⟩))).link .b
      k.session = .idle ∧ (k.tx.bind fun x => x.rest.head?) = some (if sent then 0xC8 else 0x9C) := by decide +kernel

theorem test_witness_purgeCompletion :
    ∀ he ∈ [(⟨1, 1, 0, []⟩ : Hello), ⟨1, 2, 0, []⟩],
      let h := hubOf { active with session := .ending, heldHello := some he }
      (h.link .a).session = .ending ∧ (h.link .a).heldHello = some he ∧
        ({ h.link .a with session := .idle, heldHello := none } : LinkState).LowestFree 0 := by decide

theorem test_witness_purge :
    let s := holding (live { active with session := .ending } (.resource lent)) [.purge]
    s.toHub.catchUp.turn = some (.item .a .purge) ∧ (s.toHub.catchUp.link .a).session = .ending := by decide

theorem test_witness_purgeTokens :
    ((live active (.resource lent)).slot 0).state = .live (obj (.resource lent)) ∧ lent.waitList = [] ∧
    lent.holdings.get .a = 1 ∧ resource.holdings.get .a = 0 := by decide

/-- A LIVE and a DRAINING queue, without waiters, with a message of link A. -/
theorem test_witness_purgeMessages :
    let q : Queue := { queue with nextSeq := 1, messages := [claimed] }
    ((live active (.queue q)).slot 0).state = .live (obj (.queue q)) ∧ q.waitList = [] ∧ claimed.claimedBy .a = true ∧
    (((hubOf active).setSlot 0 { gen := 1, state := .draining (obj (.queue q)) }).slot 0).state = .draining (obj (.queue q)) := by
  decide

/-- Objects on which link A and link B wait: a waiter of A to be removed, one of B to be kept. -/
theorem test_witness_purgeWaiters :
    let h (p : Part) : Hub :=
      { live active p with waiters := [ownWaiter, { waiter .wait 1 with stamp := 2 }], stampCounter := 2 }
    let g : Signal := { gate with count := 0, waitList := [1, 2] }
    let r : Resource := { lent with waitList := [1, 2] }
    let q : Queue := { queue with waitList := [1, 2] }
    ((h (.signal g)).slot 0).state = .live (obj (.signal g)) ∧ ((h (.resource r)).slot 0).state = .live (obj (.resource r)) ∧
    ((h (.queue q)).slot 0).state = .live (obj (.queue q)) ∧ ((h (.queue q)).slot 1).state = .free ∧
    (h (.queue q)).findWaiter 1 = some ownWaiter ∧ ((h (.queue q)).findWaiter 2).map Waiter.link = some .b := by decide

/-- What the frame of HUB_RESET speaks of: an IDLE link beside the requester. -/
theorem test_witness_resetFrame :
    ((asking (hubOf managing) .hubReset).toHub.catchUp.link .b).session = .idle ∧ Instr.takesItem .expiry = true := by decide

/-! ### Witnesses: the invariants hold somewhere, and steps go on from there -/

/-- No slot of the reset state holds an object. -/
theorem test_reset_noObject : ∀ i : Fin 48, State.reset.toHub.objAt i = none := by decide +kernel

theorem test_witness_invariants_objects :
    State.reset.toHub.MemoryCanonical ∧ State.reset.toHub.GenerationsLegal ∧ State.reset.toHub.NamesAndAccess ∧
    State.reset.toHub.TokensConserved ∧ State.reset.toHub.QueuesSound := by
  have no : ∀ i o, ¬ State.reset.toHub.objAt i = some o := fun i o is => by rw [test_reset_noObject i] at is; cases is
  refine ⟨by decide, by unfold Hub.GenerationsLegal; decide +kernel,
    ⟨fun i o is => absurd is (no i o), fun i _ oi _ _ is => absurd is (no i oi)⟩, fun i o is => absurd is (no i o),
    fun i o _ is => absurd is (no i o), fun i _ oi _ _ _ is => absurd is (no i oi), fun i o drains => ?_⟩
  exact absurd (by rw [Hub.objAt, drains]; rfl) (no i o)

theorem test_witness_invariants_waiters :
    State.reset.toHub.StampsDistinct ∧ State.reset.toHub.TagsDistinct ∧ State.reset.toHub.WaitListsSound ∧
    State.reset.toHub.NothingOverdue := by
  have no : ∀ i o, ¬ State.reset.toHub.objAt i = some o := fun i o is => by rw [test_reset_noObject i] at is; cases is
  have noList : ∀ i : Fin 48, State.reset.toHub.waitListAt i = [] := by decide +kernel
  refine ⟨by decide, fun l => by cases l <;> decide, ⟨fun i => ?_, fun i st mem => ?_, fun w mem => ?_, fun i o _ is => ?_⟩,
    fun i o _ _ _ is => absurd is (no i o)⟩
  · rw [noList i]; exact List.nodup_nil
  · rw [noList i] at mem; cases mem
  · cases mem
  · exact absurd is (no i o)

theorem test_witness_invariants_deadlines :
    State.reset.toHub.DeadlinesSound ∧ State.reset.toHub.DeadlinesOrdered ∧ State.reset.toHub.DeadlinesNear ∧
    State.reset.toHub.RequestsSpelled := by
  refine ⟨by unfold Hub.DeadlinesSound; decide, List.Pairwise.nil, (fun e mem => nomatch mem), fun l rq mem => ?_⟩
  cases l <;> cases mem

/-- The deadline list holds the entry of a WAITING record, and intake T the item of another. -/
theorem test_witness_deadlines :
    let h : Hub :=
      { waitingOn (hubOf active) (waiter .wait 1) with
        waiters := [waiter .wait 1, { waiter .wait 1 with stamp := 2, tag := 4 }], stampCounter := 2, expiryIntake := [2] }
    h.DeadlinesSound ∧ h.DeadlinesOrdered ∧ h.DeadlinesNear := by
  refine ⟨by unfold Hub.DeadlinesSound; decide, by unfold Hub.DeadlinesOrdered; decide, by unfold Hub.DeadlinesNear; decide⟩

/-- A request that an eight-byte name spells. -/
theorem test_witness_spelled :
    bodyWellFormed .lookup (8 :: List.replicate 8 0x41) = true ∧
    requestOf .lookup 9 (8 :: List.replicate 8 0x41) = .object (.lookup (List.replicate 8 0x41)) := by decide

theorem test_witness_invariants_links :
    State.reset.toHub.SessionsSound ∧ State.reset.toHub.ServiceSlotsSound ∧ State.reset.toHub.LinksInRange ∧
    State.reset.toHub.LinksTransmitting := by
  refine ⟨fun l => ?_, fun l => ?_, fun l => ?_, fun l => ?_⟩
  · cases l <;> decide
  · cases l <;> decide
  · unfold LinkState.InRange; cases l <;> decide
  · unfold LinkState.Transmitting
    cases l <;> exact ⟨fun _ => Or.inl rfl, fun _ is => by cases is⟩

theorem test_witness_step : ∃ t, step State.reset = .next t := ⟨_, rfl⟩

theorem test_witness_commands :
    (∃ t, exec (.ping .a) State.reset = .next t) ∧ (∃ t, exec .expiry State.reset = .next t) ∧
    ∃ t, exec .tickEvent State.reset = .next t := ⟨⟨_, rfl⟩, ⟨_, rfl⟩, ⟨_, rfl⟩⟩

end Sys2Proof.Machine.Tests
end

section
/-! Reset and pin reset: what the fresh hub reads as, and that every invariant holds of it. -/

namespace Sys2Proof.Machine

namespace Hub

@[simp] theorem slot_reset (p : Straps) (i : Fin 48) : (reset p).slot i = { gen := 1, state := .free } := by
  simp [slot, reset]

@[simp] theorem objAt_reset (p : Straps) (i : Fin 48) : (reset p).objAt i = none := by
  simp [objAt, SlotState.obj]

@[simp] theorem waitListAt_reset (p : Straps) (i : Fin 48) : (reset p).waitListAt i = [] := by
  simp [waitListAt]

@[simp] theorem intake_reset (p : Straps) (l : Link) : (reset p).intake l = [] :=
  PerLink.get_all [] l

/-- Each link controller is that of a pin reset, with a MANAGE right that its own strap gives. -/
theorem link_reset (p : Straps) (l : Link) : ∃ manage, (reset p).link l = LinkState.reset manage := by
  cases l <;> exact ⟨_, rfl⟩

/-! ### The invariants at reset: there is no object, no waiter, no entry, no item and no session -/

theorem reset_namesAndAccess (p : Straps) : (reset p).NamesAndAccess :=
  ⟨fun i o is => by simp at is, fun i j oi oj n is => by simp at is⟩

theorem reset_tokensConserved (p : Straps) : (reset p).TokensConserved :=
  fun i o is => by simp at is

theorem reset_queuesSound (p : Straps) : (reset p).QueuesSound :=
  ⟨fun i o q is => by simp at is, fun i j oi oj qi qj is => by simp at is, fun i o is => by simp at is⟩

theorem reset_waitListsSound (p : Straps) : (reset p).WaitListsSound :=
  ⟨fun i => by simp, fun i st mem => by simp at mem, fun w mem => (nomatch mem), fun i o w is => by simp at is⟩

theorem reset_nothingOverdue (p : Straps) : (reset p).NothingOverdue :=
  fun i o st rest w is => by simp at is

theorem reset_deadlinesSound (p : Straps) : (reset p).DeadlinesSound :=
  ⟨List.nodup_nil, Nat.zero_le _, Nat.zero_le _, fun _ mem => (nomatch mem), fun _ mem => (nomatch mem),
    fun _ mem => nomatch mem⟩

theorem reset_sessionsSound (p : Straps) : (reset p).SessionsSound := by
  intro l
  obtain ⟨manage, is⟩ := link_reset p l
  simp [is, LinkState.reset, purgesOn]

theorem reset_serviceSlotsSound (p : Straps) : (reset p).ServiceSlotsSound := by
  intro l
  obtain ⟨manage, is⟩ := link_reset p l
  simp [is, LinkState.reset]

theorem reset_linksInRange (p : Straps) : (reset p).LinksInRange := by
  intro l
  obtain ⟨manage, is⟩ := link_reset p l
  simp [is, LinkState.reset, LinkState.InRange]

theorem reset_linksTransmitting (p : Straps) : (reset p).LinksTransmitting := by
  intro l
  obtain ⟨manage, is⟩ := link_reset p l
  simp [is, LinkState.reset, LinkState.Transmitting]

end Hub

theorem exec_pinReset (p : Straps) (s : State) : exec (.pinReset p) s = .next (s.withHub (Hub.reset p)) := rfl

/-- Settles O4: PIN_RESET leaves `Hub.reset` of the straps it samples, whatever the hub was. -/
theorem pinResetSetsTheHubAfresh : Obligations.PinResetSetsTheHubAfresh := by
  refine fun p s => ⟨⟨_, exec_pinReset p s, rfl, rfl, rfl, rfl, rfl, rfl, rfl, rfl, rfl, Hub.slot_reset p, Hub.intake_reset p,
    rfl, rfl, rfl, rfl, fun l => ?_⟩, exec_pinReset Straps.low s⟩
  obtain ⟨manage, is⟩ := Hub.link_reset p l
  simp [State.withHub, is, LinkState.reset]

/-- Settles O52: the hub of a pin reset is empty, so every clause about its records holds of it. -/
theorem resetSatisfiesTheInvariants : Obligations.ResetSatisfiesTheInvariants := fun p =>
  ⟨rfl, fun i => by simp, fun l rq mem => by simp at mem, Hub.reset_namesAndAccess p, Hub.reset_tokensConserved p,
    Hub.reset_queuesSound p, ⟨List.nodup_nil, fun _ mem => nomatch mem⟩, fun l => ⟨List.nodup_nil, Nat.zero_le _⟩,
    Hub.reset_waitListsSound p, Hub.reset_nothingOverdue p, Hub.reset_deadlinesSound p, List.Pairwise.nil,
    fun _ mem => (nomatch mem), Hub.reset_sessionsSound p, Hub.reset_serviceSlotsSound p, Hub.reset_linksInRange p,
    Hub.reset_linksTransmitting p, rfl, rfl⟩

end Sys2Proof.Machine
end

section
/-! The object requests on the object table: refusals, CREATE, LOOKUP, QUERY, SET_ACCESS. -/

namespace Sys2Proof.Machine

/-- Settles O28: the command of a taken request performs it, and the first failing check refuses it. -/
theorem refusedRequestsChangeNothingElse : Obligations.RefusedRequestsChangeNothingElse :=
  ⟨fun code => by cases code <;> rfl, fun _ _ _ _ ticks takes fails => exec_refused ticks takes fails⟩

/-- The slot and the response of a CREATE request that passed its checks (R12). -/
theorem Hub.create_eq (h : Hub) (l : Link) (rq : Request) (c : CreateCommon) (i : Fin 48) (d : Discipline) (p : Part) :
    h.create l rq c i d p =
      (h.setSlot i
        { gen := (h.slot i).gen,
          state := .live { name := if c.name = [] then none else some c.name, creator := l,
                           access := linkSetOf c.access, discipline := d, part := p } }).reply l rq .ok
        [byteOf (h.slot i).gen, byteOf i] none := rfl

/-- Settles O29: each CREATE request that passes its checks is `Hub.create` at the lowest FREE slot. -/
theorem createTakesTheLowestFreeSlot : Obligations.CreateTakesTheLowestFreeSlot := by
  intro s l rq h takes passes created
  have run {body : ObjReq} (is : rq.body = body) :
      exec (body.command 0) s = .next (s.withHub (body.perform 0 l rq (h.takeFrom l))) := exec_request_of 0 takes is
  clear_value h
  have made {body : ObjReq} {c : CreateCommon} {p : Part} (is : rq.body = body)
      (new : (h.takeFrom l).Created l rq c p (body.perform 0 l rq (h.takeFrom l))) : created (body.command 0) c p := by
    obtain ⟨i, free, before, eq⟩ := new
    refine ⟨i, free, before, ?_⟩
    rw [run is, eq, Hub.create_eq, Hub.slot_takeFrom]
  refine ⟨fun c limit robust is => made is ?_, fun c limit initial is => made is ?_,
    fun c base blocks maxEntries maxLength threshold present companion is => made is ?_⟩
  · exact ((h.takeFrom l).createResource_spec l rq c limit robust is).2 passes
  · exact ((h.takeFrom l).createSignal_spec l rq c limit initial is).2 passes
  · exact ((h.takeFrom l).createQueue_spec l rq c base blocks maxEntries maxLength threshold present companion is).2 passes

/-- The QUERY snapshot of an object, written out by kind (R41, R91, R181). -/
theorem querySnapshot_eq (hd : Handle) (st : SlotState) (o : Obj) :
    querySnapshot hd st o =
      [byteOf hd.gen, byteOf hd.slot, st.byte, o.part.kindByte, byteOf (o.name.getD []).length] ++ o.name.getD [] ++
        [byteOf (linkNumber o.creator), o.access.zeroExtend 8, if o.discipline = .priority then 0 else 1] ++
        match o.part with
        | .resource r =>
          [byteOf r.limit, byteOf r.available, byteOf r.stranded, if r.robust then 1 else 0, byteOf r.holdings.a,
           byteOf r.holdings.b, byteOf r.holdings.c, byteOf r.holdings.d, byteOf r.waitList.length]
        | .signal g => [byteOf g.limit, byteOf g.count, byteOf g.waitList.length]
        | .queue q =>
          [byteOf q.base, byteOf q.blocks, byteOf q.maxEntries] ++ bytes16 q.maxLength ++ [byteOf q.threshold] ++
          (match q.companion with | some c => [1, byteOf c.gen, byteOf c.slot] | none => [0, 0, 0]) ++
          [byteOf q.messages.length, byteOf (q.messages.countP Message.isReady),
           byteOf (q.messages.countP Message.isClaimed)] ++
          bytes16 q.used ++ bytes16 (64 * q.blocks - q.used) ++ bytes16 q.nextSeq.toNat ++ [byteOf q.waitList.length] := by
  have discipline : o.discipline.byte = if o.discipline = .priority then 0 else 1 := by cases o.discipline <;> rfl
  have head : querySnapshot hd st o =
      [byteOf hd.gen, byteOf hd.slot, st.byte, o.part.kindByte, byteOf (o.name.getD []).length] ++ o.name.getD [] ++
        [byteOf (linkNumber o.creator), o.access.zeroExtend 8, o.discipline.byte] ++ o.part.snapshot := by
    simp [querySnapshot, Handle.bytes, namedBytes]
  rw [head, discipline]
  rfl

/-- Settles O30: LOOKUP and QUERY reply from the table, SET_ACCESS writes the one slot and replies. -/
theorem lookupQueryAndSetAccess : Obligations.LookupQueryAndSetAccess := by
  constructor
  · intro s l rq h takes passes kindByte stateByte
    have run {body : ObjReq} (is : rq.body = body) :
        exec (body.command 0) s = .next (s.withHub (body.perform 0 l rq (h.takeFrom l))) := exec_request_of 0 takes is
    clear_value h
    have kind (o : Obj) : kindByte o = o.part.kindByte := by cases part : o.part <;> simp [kindByte, part, Part.kindByte]
    have state (i : Fin 48) : stateByte i = (h.slot i).state.byte := by
      cases state : (h.slot i).state <;> simp [stateByte, state, SlotState.byte]
    refine ⟨fun name is => ?_, fun hd is => ?_⟩
    · obtain ⟨i, o, there, named, eq⟩ := ((h.takeFrom l).lookup_spec l rq name is).2 passes
      refine ⟨i, o, there, named, ?_⟩
      rw [show exec .lookup s = _ from run is, ObjReq.perform, eq, kind, state]
      rfl
    · obtain ⟨i, o, names, there, eq⟩ := ((h.takeFrom l).query_spec l rq hd is).2 passes
      refine ⟨i, o, names, there, ?_⟩
      rw [show exec .query s = _ from run is, ObjReq.perform, eq, kind, state, Hub.slot_takeFrom, querySnapshot_eq] <;> rfl
  · intro s l rq hd access h takes is passes
    have run : exec (.setAccess) s = .next (s.withHub ((h.takeFrom l).setAccess l rq hd access)) := exec_request_of 0 takes is
    clear_value h
    obtain ⟨i, o, names, live, _, eq⟩ := ((h.takeFrom l).setAccess_spec l rq hd access is).2 passes
    exact ⟨i, o, names, live, by rw [run, eq]; rfl⟩

end Sys2Proof.Machine
end


section
/-! Messages that a DELETE, a FLUSH or a completion report makes SPENT, and the objects that go with them. -/

namespace Sys2Proof.Machine

/-! ### Message lists (R71, R75, R84) -/

theorem Message.isReady_eq (m : Message) : m.isReady = decide (m.state = .ready) := by
  cases state : m.state <;> simp [isReady, state]

theorem Message.isSpent_eq (m : Message) : m.isSpent = decide (m.state = .spent) := by
  cases state : m.state <;> simp [isSpent, state]

theorem Queue.readyCount_eq (q : Queue) : q.readyCount = q.messages.countP fun m => decide (m.state = .ready) :=
  List.countP_congr fun m _ => by rw [m.isReady_eq]

/-- Reclamation drops the SPENT messages at the oldest end and touches nothing else of the queue (R75). -/
theorem Queue.reclaim_eq (q : Queue) :
    q.reclaim = { q with messages := q.messages.dropWhile fun m => decide (m.state = .spent) } := by
  simp only [reclaim, funext Message.isSpent_eq]

/-- What is left of a queue once its READY messages are SPENT and reclaimed (R84, R85). -/
theorem Queue.reclaim_spendReady (q : Queue) :
    q.spendReady.reclaim =
      { q with
        messages := (q.messages.map fun m => if m.state = .ready then { m with state := .spent } else m).dropWhile
          fun m => decide (m.state = .spent) } := by
  rw [reclaim_eq]
  simp only [spendReady, Message.isReady_eq, decide_eq_true_eq]

namespace Hub

/-! ### The freeing of a slot (R3, R17) -/

/-- Freeing a slot depends on the slot alone. -/
theorem freeSlotAt_of_slots {h h' : Hub} (same : h'.slots = h.slots) (i : Fin 48) :
    h'.freeSlotAt i = h'.setSlot i (h.slot i).freed := by
  simp only [freeSlotAt, slot, same]

/-! ### DELETE and the waiters it abandons (R14 to R17, R57, R85) -/

/-- DELETE of a queue: the waiters are abandoned after the response, then the slot is freed or DRAINING. -/
theorem deleteQueue_eq (h : Hub) (l : Link) (rq : Request) (i : Fin 48) (o : Obj) (q : Queue) :
    h.deleteQueue l rq i o q =
      let kept := q.spendReady.reclaim.messages
      (q.waitList.foldl abandon (h.reply l rq .ok [] none)).setSlot i
        (if kept = [] then (h.slot i).freed
         else { h.slot i with state := .draining { o with part := .queue { q with messages := kept, waitList := [] } } }) := by
  have slots : (q.waitList.foldl abandon (h.reply l rq .ok [] none)).slots = h.slots := by simp
  have same : (q.waitList.foldl abandon (h.reply l rq .ok [] none)).slot i = h.slot i := by simp only [slot, slots]
  simp only [deleteQueue, Queue.reclaim_spendReady]
  split
  · exact freeSlotAt_of_slots slots i
  · rw [same]

/-- An abandoned record: its wait ends, and its notice carries the handle it named (R57). -/
theorem abandon_of_mem {h : Hub} {w : Waiter} (distinct : h.StampsDistinct) (mem : w ∈ h.waiters) :
    h.abandon w.stamp = (h.endWait w .abandoned none).notice w noticeAbandoned w.object.bytes none := by
  simp only [abandon, findWaiter_of_mem distinct mem]

end Hub

/-- Settles O31: DELETE by the kind of its object, and the one effect of each abandonment. -/
theorem deleteByKindAbandonsWaiters : Obligations.DeleteByKindAbandonsWaiters := by
  constructor
  · intro s l rq hd h takes is passes
    have run : exec .delete s = .next (s.withHub ((h.takeFrom l).delete l rq hd)) := exec_request_of 0 takes is
    clear_value h
    obtain ⟨i, o, names, live, eq⟩ := ((h.takeFrom l).delete_spec l rq hd is).2 passes
    refine ⟨i, o, names, live, ?_⟩
    intro freed answered
    rw [run, eq]
    rcases part : o.part with r | g | q
    · rfl
    · have slots : (g.waitList.foldl Hub.abandon answered).slots = h.slots := by simp [answered]
      exact congrArg (fun h' => Host.Outcome.next (s.withHub h')) (Hub.freeSlotAt_of_slots slots i)
    · have eq := Hub.deleteQueue_eq (h.takeFrom l) l rq i o q
      rw [Queue.reclaim_spendReady] at eq
      exact congrArg (fun h' => Host.Outcome.next (s.withHub h')) eq
  · intro h w distinct mem
    refine ⟨h.endWait w .abandoned none, Hub.abandon_of_mem distinct mem, ?_, ?_, ?_⟩
    all_goals simp only [Hub.endWait_spec]

namespace Hub

/-! ### The report of a spent message (R82, R112) -/

theorem spends_eq (l : Link) (seq : Half) (session : Nat) (c : Carrier) (m : Message) :
    spends l seq session c m = (decide (m.seq = seq) && decide (m.state = .claimed ⟨l, session, c⟩)) :=
  Bool.decide_and _ _

/-- A report that matches no message is dropped. -/
theorem spendMessage_dropped {h : Hub} {l : Link} {ref : MessageRef} {session : Nat} {c : Carrier}
    (no : ∀ q, h.queueOf ref.queue = some q → q.messages.any (spends l ref.seq session c) = false) :
    h.spendMessage l ref session c = h := by
  unfold spendMessage
  rcases names : h.slotOf ref.queue with _ | i
  · rfl
  · have queue : h.queueOf ref.queue = (h.objAt i).bind fun o => o.part.queue? := by
      simp only [queueOf, objOf, names, Option.bind_some]
    rw [queue] at no
    dsimp only
    rcases holds : (h.objAt i).bind fun o => o.part.queue? with _ | q
    · rfl
    · exact if_neg (Bool.eq_false_iff.1 (no q holds))

/-- A report that matches a message makes it SPENT, and reclamation runs. -/
theorem spendMessage_spends {h : Hub} {l : Link} {ref : MessageRef} {session : Nat} {c : Carrier} {i : Fin 48} {o : Obj}
    {q : Queue} (names : h.slotOf ref.queue = some i) (there : h.objAt i = some o) (part : o.part = .queue q)
    (hit : q.messages.any (spends l ref.seq session c) = true) :
    h.spendMessage l ref session c = h.setReclaimed i
      { q with
        messages := q.messages.map fun m => if spends l ref.seq session c m then { m with state := .spent } else m } := by
  simp only [spendMessage, names, there, Option.bind_some, part, Part.queue?, hit, if_true]

/-- What a change that made messages SPENT leaves in the slot: reclamation, and the freeing of a DRAINING slot that is then
empty (R75, R82). -/
theorem setReclaimed_eq {h : Hub} {i : Fin 48} {o : Obj} (there : h.objAt i = some o) (q : Queue) :
    h.setReclaimed i q = h.setSlot i
      (if (h.slot i).state = .draining o ∧ q.reclaim.messages = [] then (h.slot i).freed
       else { h.slot i with state := (h.slot i).state.modObj fun o => { o with part := .queue q.reclaim } }) := by
  unfold objAt at there
  unfold setReclaimed setPart modObj
  cases state : (h.slot i).state with
  | free => rw [state] at there; cases there
  | live x => simp
  | draining x =>
    rw [state] at there
    cases there
    by_cases empty : q.reclaim.messages = []
    · simp [empty, freeSlotAt, Slot.freed]
    · simp [empty]

end Hub

/-- The command of a "spend message" report that the engine takes performs the report. -/
theorem exec_spendMessage {s : State} {l : Link} {ref : MessageRef} {session : Nat} {c : Carrier}
    (turn : s.toHub.catchUp.turn = some (.item l (.spendMessage ref session c))) :
    exec .spendMessage s = .next (s.withHub ((s.toHub.catchUp.takeFrom l).spendMessage l ref session c)) := by
  simp only [exec, execSpendMessage, State.onHub_next, turn]

/-- Settles O43: FLUSH by its checks, a "spend message" report by the messages that match it. -/
theorem flushAndSpendMessage : Obligations.FlushAndSpendMessage := by
  constructor
  · intro s l rq hd h takes is passes
    have run : exec .flush s = .next (s.withHub ((h.takeFrom l).flush l rq hd)) := exec_request_of 0 takes is
    clear_value h
    obtain ⟨i, o, q, names, live, part, eq⟩ := ((h.takeFrom l).flush_spec l rq hd is).2 passes
    refine ⟨i, o, q, names, live, part, ?_⟩
    rw [run, eq, Queue.reclaim_spendReady, Queue.readyCount_eq]
  · intro s l ref session c h matching turn
    have run : exec .spendMessage s = .next (s.withHub ((h.takeFrom l).spendMessage l ref session c)) := exec_spendMessage turn
    have spends : Hub.spends l ref.seq session c = matching := funext (Hub.spends_eq l ref.seq session c)
    clear_value h
    refine ⟨fun no => ?_, fun i o q names there part hit => ?_⟩
    · have dropped := Hub.spendMessage_dropped (h := h.takeFrom l) (l := l) (spends ▸ no)
      rw [run, dropped]
    · have spent := Hub.spendMessage_spends (h := h.takeFrom l) (l := l) names there part (spends ▸ hit)
      rw [run, spent, Hub.setReclaimed_eq (h := h.takeFrom l) there, Queue.reclaim_eq, spends]
      rfl

end Sys2Proof.Machine
end


section
/-! HUB_RESET: what it does at each link, one link at a time, and what it leaves of the engine. -/

namespace Sys2Proof.Machine

namespace LinkState

/-- A session end that is taken down: the frame in transmission stops, the list is cut to SESSION_ENDED, and the window is
emptied (R154, R158). -/
theorem takeDown_eq (k : LinkState) (t : Teardown) :
    (k.takeDown t).1 =
      let cleared : LinkState :=
        { k.stopFrame.1 with window := Vector.replicate 4 none, txList := [], tx := none, teardown := none }
      if t.cause = .lineBreak then cleared
      else cleared.enqueue (k.stopFrame.2.isSome || t.delimiterSent) (Hub.sessionEnded t.cause t.tag k.sessionNo) := by
  simp only [takeDown, releaseAll]
  split <;> rfl

/-- The session fields of a record have no part in the stopping of its frame (R136). -/
theorem stopFrame_idle (k : LinkState) :
    ({ k with session := .idle, keepaliveCount := none, heldHello := none } : LinkState).stopFrame =
      ({ k.stopFrame.1 with session := .idle, keepaliveCount := none, heldHello := none }, k.stopFrame.2) := by
  unfold stopFrame
  dsimp only
  repeat' split
  all_goals rfl

end LinkState

namespace Hub

/-! ### The end of ENDING looks at one link and at the tick (R142, R143, R157) -/

theorem answerHello_frame (h : Hub) (l : Link) (slot : Fin 4) (he : Hello) :
    h.answerHello l slot he = { h with links := (h.answerHello l slot he).links } := by
  unfold answerHello; split <;> rfl

theorem leaveEnding_frame (h : Hub) (l : Link) : h.leaveEnding l = { h with links := (h.leaveEnding l).links } := by
  unfold leaveEnding
  rcases (h.link l).heldHello with _ | he
  · rfl
  · dsimp only
    split
    · rfl
    · rw [answerHello_frame]; rfl

theorem link_answerHello_other (h : Hub) {l m : Link} (slot : Fin 4) (he : Hello) (ne : m ≠ l) :
    (h.answerHello l slot he).link m = h.link m := by
  unfold answerHello; split <;> simp [beginSession, linkAnswer, link_modLink_other _ _ ne]

theorem link_leaveEnding_other (h : Hub) {l m : Link} (ne : m ≠ l) : (h.leaveEnding l).link m = h.link m := by
  unfold leaveEnding
  rcases (h.link l).heldHello with _ | he
  · exact h.link_modLink_other _ ne
  · dsimp only
    split
    · simp [link_modLink_other _ _ ne]
    · simp [link_answerHello_other _ _ _ ne, link_modLink_other _ _ ne]

theorem link_answerHello_congr {h h' : Hub} {l : Link} (slot : Fin 4) (he : Hello) (link : h.link l = h'.link l)
    (tick : h.tick = h'.tick) : (h.answerHello l slot he).link l = (h'.answerHello l slot he).link l := by
  unfold answerHello; split <;> simp [beginSession, linkAnswer, link, tick]

theorem link_leaveEnding_congr {h h' : Hub} {l : Link} (link : h.link l = h'.link l) (tick : h.tick = h'.tick) :
    (h.leaveEnding l).link l = (h'.leaveEnding l).link l := by
  unfold leaveEnding
  rw [link]
  rcases (h'.link l).heldHello with _ | he
  · simp [link]
  · simp only [link_modLink_self, link]
    split
    · simp [link]
    · exact link_answerHello_congr _ he (by simp [link]) (by simp [tick])

/-! ### HUB_RESET at one link (R158, R159) -/

theorem resetLink_frame (requester : Link) (tag : Byte) (h : Hub) (l : Link) :
    resetLink requester tag h l = { h with links := (resetLink requester tag h l).links } := by
  unfold resetLink
  split
  · rfl
  · rfl
  · split
    · rw [leaveEnding_frame]; rfl
    · exact leaveEnding_frame h l

@[simp] theorem resetLink_tick (requester : Link) (tag : Byte) (h : Hub) (l : Link) :
    (resetLink requester tag h l).tick = h.tick := by rw [resetLink_frame]

theorem link_resetLink_other (requester : Link) (tag : Byte) (h : Hub) {l m : Link} (ne : m ≠ l) :
    (resetLink requester tag h l).link m = h.link m := by
  unfold resetLink
  split
  · rfl
  · simp [tearDownAtReset, link_modLink_other _ _ ne]
  · split <;> simp [tearDownAtReset, link_leaveEnding_other _ ne, link_modLink_other _ _ ne]

theorem link_resetLink_congr (requester : Link) (tag : Byte) {h h' : Hub} {l : Link} (link : h.link l = h'.link l)
    (tick : h.tick = h'.tick) : (resetLink requester tag h l).link l = (resetLink requester tag h' l).link l := by
  unfold resetLink
  rw [link]
  split
  · exact link
  · simp [tearDownAtReset, link]
  · split
    · exact link_leaveEnding_congr (by simp [tearDownAtReset, link]) (by simp [tearDownAtReset, tick])
    · exact link_leaveEnding_congr link tick

theorem foldl_resetLink_frame (requester : Link) (tag : Byte) (ls : List Link) (h : Hub) :
    ls.foldl (resetLink requester tag) h = { h with links := (ls.foldl (resetLink requester tag) h).links } := by
  induction ls generalizing h with
  | nil => rfl
  | cons l ls ih => rw [List.foldl_cons, ih, resetLink_frame]

/-- The links are reset independently of one another. -/
theorem link_foldl_resetLink (requester : Link) (tag : Byte) (h : Hub) (m : Link) :
    (Link.all.foldl (resetLink requester tag) h).link m = (resetLink requester tag h m).link m := by
  have reach {g : Hub} (link : g.link m = h.link m) (tick : g.tick = h.tick) :
      (resetLink requester tag g m).link m = (resetLink requester tag h m).link m :=
    link_resetLink_congr requester tag link tick
  simp only [Link.all, List.foldl]
  cases m <;> simp [link_resetLink_other, reach]

theorem resetLink_of_idle {requester : Link} {tag : Byte} {h : Hub} {l : Link} (idle : (h.link l).session = .idle) :
    resetLink requester tag h l = h := by
  simp only [resetLink, idle]

theorem link_resetLink_active {requester : Link} {tag : Byte} {h : Hub} {l : Link} (active : (h.link l).session = .active) :
    (resetLink requester tag h l).link l =
      (({ h.link l with session := .idle, keepaliveCount := none, heldHello := none } : LinkState).takeDown
        ⟨.hubReset, if l = requester then tag else 0, false⟩).1 := by
  simp only [resetLink, active, tearDownAtReset, link_modLink_self]

/-- An ENDING link finishes its session end and leaves ENDING as at a purge completion (R158). -/
theorem link_resetLink_ending {requester : Link} {tag : Byte} {h : Hub} {l : Link} (ending : (h.link l).session = .ending) :
    (resetLink requester tag h l).link l =
      let finished := ((h.link l).teardown.map fun t => ((h.link l).takeDown t).1).getD (h.link l)
      ((h.setLink l finished).purgeCompletion l).link l := by
  rcases e : (h.link l).teardown with _ | t
  · simp [resetLink, ending, e, purgeCompletion]
  · simp [resetLink, ending, e, purgeCompletion, tearDownAtReset, modLink]

/-- A HUB_RESET that is carried out (R115, R116): the engine's records are emptied, then each link is reset. -/
theorem hubReset_eq {h : Hub} {l : Link} (rq : Request) (right : h.manages l = true) :
    h.hubReset l rq = Link.all.foldl (resetLink l rq.tag)
      { h with slots := h.slots.map Slot.atHubReset, waiters := [], intakes := PerLink.all [], expiryIntake := [],
               deadlines := [], remembered := .link l } := by
  simp [hubReset, right]

/-- What a HUB_RESET that is carried out leaves of the engine; the links are the one field left open. -/
theorem hubReset_frame {h : Hub} {l : Link} (rq : Request) (right : h.manages l = true) :
    h.hubReset l rq =
      { h with slots := h.slots.map Slot.atHubReset, waiters := [], intakes := PerLink.all [], expiryIntake := [],
               deadlines := [], remembered := .link l, links := (h.hubReset l rq).links } := by
  rw [hubReset_eq rq right, foldl_resetLink_frame]

/-- What a HUB_RESET that is carried out does at a link is its reset from the hub as it was. -/
theorem link_hubReset {h : Hub} {l : Link} (rq : Request) (right : h.manages l = true) (m : Link) :
    (h.hubReset l rq).link m = (resetLink l rq.tag h m).link m := by
  rw [hubReset_eq rq right, link_foldl_resetLink]
  exact link_resetLink_congr l rq.tag rfl rfl

end Hub

/-- Settles O45: the engine by the frame of HUB_RESET, each link by its own reset. -/
theorem hubResetClearsTheEngine : Obligations.HubResetClearsTheEngine := by
  intro s l rq h takes is right
  have run : exec .hubReset s = .next (s.withHub ((h.takeFrom l).hubReset l rq)) := exec_request_of 0 takes is
  clear_value h
  have frame := Hub.hubReset_frame (h := h.takeFrom l) rq right
  have link (m : Link) : ((h.takeFrom l).hubReset l rq).link m = (Hub.resetLink l rq.tag h m).link m :=
    (Hub.link_hubReset (h := h.takeFrom l) rq right m).trans (Hub.link_resetLink_congr l rq.tag rfl rfl)
  generalize (h.takeFrom l).hubReset l rq = h' at run frame link
  have slot (i : Fin 48) : h'.slot i = (h.slot i).atHubReset := by rw [frame]; simp [Hub.slot]
  have intake (m : Link) : h'.intake m = [] := by rw [frame]; exact PerLink.get_all [] m
  refine ⟨s.withHub h', run, rfl, slot, congrArg Hub.waiters frame, intake, congrArg Hub.deadlines frame,
    congrArg Hub.expiryIntake frame, congrArg Hub.remembered frame, (congrArg Hub.tick frame :),
    (congrArg Hub.stampCounter frame :), (congrArg Hub.ready frame :), (congrArg Hub.speed frame :), fun m => ?_⟩
  refine ⟨fun idle => ?_, fun active => ?_, fun ending => ?_⟩
  · rw [State.withHub, link, Hub.resetLink_of_idle idle]
  · rw [State.withHub, link, Hub.link_resetLink_active active, LinkState.takeDown_eq, LinkState.stopFrame_idle]
    simp [Hub.sessionEnded, noticeSessionEnded, EndCause.byte]
  · intro cleared done
    have finished : (((h.link m).teardown.map fun t => ((h.link m).takeDown t).1).getD (h.link m)) = done := by
      rcases e : (h.link m).teardown with _ | t
      · simp [done, e]
      · simp [done, e, LinkState.takeDown_eq, cleared, Hub.sessionEnded, noticeSessionEnded]
    rw [State.withHub, link, Hub.link_resetLink_ending ending]
    dsimp only
    rw [finished]

end Sys2Proof.Machine
end


section
/-! What a step can do to the names, the generations and the requests on the intakes. Almost every operation of the hub adds no
object and no request (`Hub.NothingNew`); CREATE, SET_ACCESS and a good frame that carries an object request are the rest. -/

namespace Sys2Proof.Machine

/-! ### A slot that gains no object -/

/-- A slot `s'` that may follow `s` where no object is made: a legal generation stays legal, and an object in it has the name, the
creator and the access set of the object that was there. -/
structure Slot.Follows (s s' : Slot) : Prop where
  legal : 1 ≤ s.gen ∧ s.gen ≤ 255 → 1 ≤ s'.gen ∧ s'.gen ≤ 255
  same : ∀ o', s'.state.obj = some o' →
    ∃ o, s.state.obj = some o ∧ o'.name = o.name ∧ o'.creator = o.creator ∧ o'.access = o.access

namespace Slot

theorem Follows.refl (s : Slot) : s.Follows s := ⟨id, fun o is => ⟨o, is, rfl, rfl, rfl⟩⟩

theorem Follows.trans {s s' s'' : Slot} (first : s.Follows s') (second : s'.Follows s'') : s.Follows s'' where
  legal := fun legal => second.legal (first.legal legal)
  same := fun o'' is'' => by
    obtain ⟨o', is', name', creator', access'⟩ := second.same o'' is''
    obtain ⟨o, is, name, creator, access⟩ := first.same o' is'
    exact ⟨o, is, name'.trans name, creator'.trans creator, access'.trans access⟩

theorem nextGen_legal (g : Nat) (legal : 1 ≤ g ∧ g ≤ 255) : 1 ≤ nextGen g ∧ nextGen g ≤ 255 := by
  unfold nextGen; split <;> omega

theorem follows_freed (s : Slot) : s.Follows s.freed := ⟨nextGen_legal s.gen, fun _ is => nomatch is⟩

theorem follows_atHubReset (s : Slot) : s.Follows s.atHubReset := by
  unfold atHubReset
  split
  · exact .refl s
  · exact s.follows_freed

/-- A change of the object that leaves its name, creator and access set. -/
theorem follows_modObj (s : Slot) {f : Obj → Obj}
    (keeps : ∀ o, (f o).name = o.name ∧ (f o).creator = o.creator ∧ (f o).access = o.access) :
    s.Follows { s with state := s.state.modObj f } where
  legal := id
  same := fun o' is => by
    cases state : s.state <;> simp [state, SlotState.modObj, SlotState.obj] at is
    all_goals subst is; exact ⟨_, rfl, keeps _⟩

end Slot

namespace Hub

/-! ### A hub that gains no object and no request -/

/-- `h'` holds no object and no object request that `h` does not hold. -/
structure NothingNew (h h' : Hub) : Prop where
  slots : ∀ i, (h.slot i).Follows (h'.slot i)
  requests : ∀ l rq, .request rq ∈ h'.intake l → .request rq ∈ h.intake l

/-- From `h` to `h'` the generations stay legal, and the names and the spelling of the requests hold on. -/
structure KeepsNames (h h' : Hub) : Prop where
  generations : h.GenerationsLegal → h'.GenerationsLegal
  names : h.RequestsSpelled → h.NamesAndAccess → h'.RequestsSpelled ∧ h'.NamesAndAccess

theorem NothingNew.of_same {h h' : Hub} (slots : h'.slots = h.slots) (intakes : h'.intakes = h.intakes) : h.NothingNew h' where
  slots := fun i => by simp only [slot, slots]; exact .refl _
  requests := fun l rq => by simp only [intake, intakes]; exact id

theorem NothingNew.refl (h : Hub) : h.NothingNew h := .of_same rfl rfl

theorem NothingNew.trans {h h' h'' : Hub} (first : h.NothingNew h') (second : h'.NothingNew h'') : h.NothingNew h'' where
  slots := fun i => (first.slots i).trans (second.slots i)
  requests := fun l rq mem => first.requests l rq (second.requests l rq mem)

theorem NothingNew.foldl {α : Type} {f : Hub → α → Hub} (each : ∀ (h : Hub) (a : α), h.NothingNew (f h a))
    (as : List α) (h : Hub) : h.NothingNew (as.foldl f h) := by
  induction as generalizing h with
  | nil => exact .refl h
  | cons a as ih => exact (each h a).trans (ih (f h a))

theorem KeepsNames.trans {h h' h'' : Hub} (first : h.KeepsNames h') (second : h'.KeepsNames h'') : h.KeepsNames h'' where
  generations := fun legal => second.generations (first.generations legal)
  names := fun spelled named =>
    have ⟨spelled', named'⟩ := first.names spelled named
    second.names spelled' named'

/-- Where nothing is new, each object stands for the one that was in its slot, and each request was there before. -/
theorem NothingNew.keepsNames {h h' : Hub} (nothing : h.NothingNew h') : h.KeepsNames h' where
  generations := fun legal i => (nothing.slots i).legal (legal i)
  names := fun spelled ⟨each, distinct⟩ => by
    refine ⟨fun l rq mem => spelled l rq (nothing.requests l rq mem), fun i o' is' => ?_,
      fun i j oi' oj' n isi isj ni nj => ?_⟩
    · obtain ⟨o, is, name, creator, access⟩ := (nothing.slots i).same o' is'
      rw [name, creator, access]
      exact each i o is
    · obtain ⟨oi, isi, namei, -, -⟩ := (nothing.slots i).same oi' isi
      obtain ⟨oj, isj, namej, -, -⟩ := (nothing.slots j).same oj' isj
      exact distinct i j oi oj n isi isj (namei ▸ ni) (namej ▸ nj)

/-! ### The operations on slots and intakes -/

theorem setSlot_nothingNew {h : Hub} {i : Fin 48} {sl : Slot} (follows : (h.slot i).Follows sl) :
    h.NothingNew (h.setSlot i sl) where
  slots := fun j => by
    rw [slot_setSlot]
    split
    · subst j; exact follows
    · exact .refl _
  requests := fun _ _ mem => mem

theorem modObj_nothingNew (h : Hub) (i : Fin 48) {f : Obj → Obj}
    (keeps : ∀ o, (f o).name = o.name ∧ (f o).creator = o.creator ∧ (f o).access = o.access) :
    h.NothingNew (h.modObj i f) :=
  setSlot_nothingNew ((h.slot i).follows_modObj keeps)

theorem setPart_nothingNew (h : Hub) (i : Fin 48) (p : Part) : h.NothingNew (h.setPart i p) :=
  h.modObj_nothingNew i fun _ => ⟨rfl, rfl, rfl⟩

theorem setWaitListAt_nothingNew (h : Hub) (i : Fin 48) (ws : List Stamp) : h.NothingNew (h.setWaitListAt i ws) :=
  h.modObj_nothingNew i fun _ => ⟨rfl, rfl, rfl⟩

theorem freeSlotAt_nothingNew (h : Hub) (i : Fin 48) : h.NothingNew (h.freeSlotAt i) :=
  setSlot_nothingNew (h.slot i).follows_freed

theorem setLive_nothingNew {h : Hub} {i : Fin 48} {o : Obj} (live : (h.slot i).state = .live o) (p : Part) :
    h.NothingNew (h.setLive i o p) :=
  setPart_live live p ▸ h.setPart_nothingNew i p

/-- A change of one intake that adds no request. -/
theorem setIntake_nothingNew {h : Hub} {l : Link} {items : List Item}
    (old : ∀ rq, .request rq ∈ items → .request rq ∈ h.intake l) : h.NothingNew (h.setIntake l items) where
  slots := fun _ => .refl _
  requests := fun m rq mem => by
    by_cases ne : m = l
    · subst m; rw [intake_setIntake_self] at mem; exact old rq mem
    · rwa [intake_setIntake_other _ _ ne] at mem

theorem takeFrom_nothingNew (h : Hub) (l : Link) : h.NothingNew (h.takeFrom l) :=
  (setIntake_nothingNew fun _ mem => List.mem_of_mem_tail mem).trans (.of_same rfl rfl)

theorem reports_noRequest (item : TxItem) (rq : Request) : .request rq ∉ item.reports := by
  unfold TxItem.reports TxItem.spendReport
  repeat' split
  all_goals simp

/-! ### Waiters, the grant pass and the hand-out -/

theorem endWait_nothingNew (h : Hub) (w : Waiter) (st : WaiterState) (msg : Option Half) : h.NothingNew (h.endWait w st msg) :=
  .of_same (by simp) (by rw [endWait_spec])

theorem notice_nothingNew (h : Hub) (w : Waiter) (kind : Byte) (body : List Byte) (msg : Option MessageRef) :
    h.NothingNew (h.notice w kind body msg) := .of_same rfl rfl

theorem reply_nothingNew (h : Hub) (l : Link) (rq : Request) (code : ResultCode) (body : List Byte) (msg : Option MessageRef) :
    h.NothingNew (h.reply l rq code body msg) := .of_same rfl rfl

theorem abandon_nothingNew (h : Hub) (st : Stamp) : h.NothingNew (h.abandon st) := by
  unfold abandon
  split
  · exact (h.endWait_nothingNew _ _ _).trans (notice_nothingNew _ _ _ _ _)
  · exact .refl h

theorem grant_nothingNew (h : Hub) (w : Waiter) : h.NothingNew (h.grant w) :=
  (h.endWait_nothingNew _ _ _).trans (notice_nothingNew _ _ _ _ _)

theorem grantHead_nothingNew {h h' : Hub} {i : Fin 48} {st : Stamp} (granted : h.grantHead i st = some h') : h.NothingNew h' := by
  unfold grantHead at granted
  split at granted
  · obtain ⟨p, -, rfl⟩ := Option.map_eq_some_iff.1 granted
    exact (h.setPart_nothingNew i p).trans (grant_nothingNew _ _)
  · cases granted

theorem grantList_nothingNew (i : Fin 48) (sts : List Stamp) (h : Hub) : h.NothingNew (grantList i sts h) := by
  induction sts generalizing h with
  | nil => exact .refl h
  | cons st sts ih =>
    rw [grantList]
    split
    · rename_i granted; exact (grantHead_nothingNew granted).trans (ih _)
    · exact .refl h

theorem grantPass_nothingNew (h : Hub) (i : Fin 48) : h.NothingNew (h.grantPass i) := grantList_nothingNew i _ h

theorem passIfHead_nothingNew (h : Hub) (i : Fin 48) (wasHead : Bool) : h.NothingNew (h.passIfHead i wasHead) := by
  unfold passIfHead
  split
  · exact h.grantPass_nothingNew i
  · exact .refl h

theorem signalCompanion_nothingNew (h : Hub) (hd : Handle) : h.NothingNew (h.signalCompanion hd) := by
  unfold signalCompanion
  repeat' split
  · exact .refl h
  · exact (h.setPart_nothingNew _ _).trans (grantPass_nothingNew _ _)
  · exact .refl h
  · exact .refl h

theorem insertClaim_nothingNew (h : Hub) (e : DeadlineEntry) : h.NothingNew (h.insertClaim e) := by
  unfold insertClaim
  split <;> exact .of_same rfl rfl

theorem makeWaiter_nothingNew (h : Hub) (ticks : Nat) (l : Link) (rq : Request) (hd : Handle) (i : Fin 48) (d : Discipline)
    (op : WaitOp) (amount priority timeout : Nat) :
    h.NothingNew (h.makeWaiter ticks l rq hd i d op amount priority timeout) := by
  unfold makeWaiter
  dsimp only
  have recorded (counter : Stamp) (ws : List Waiter) (sts : List Stamp) :
      h.NothingNew (({ h with stampCounter := counter, waiters := ws } : Hub).setWaitListAt i sts) :=
    .trans (h' := { h with stampCounter := counter, waiters := ws }) (.of_same rfl rfl) (setWaitListAt_nothingNew _ i sts)
  have ticked (h : Hub) : h.NothingNew (h.tickEvents ticks) := .of_same (tickEvents_slots ticks h) (tickEvents_intakes ticks h)
  refine NothingNew.trans ?_ (reply_nothingNew _ _ _ _ _ _)
  split
  · exact ((recorded _ _ _).trans (ticked _)).trans (insertClaim_nothingNew _ _)
  · exact recorded _ _ _

theorem deliver_nothingNew (h : Hub) (q : Queue) (w : Waiter) (m : Message) : h.NothingNew (h.deliver q w m) :=
  (h.endWait_nothingNew _ _ _).trans (notice_nothingNew _ _ _ _ _)

theorem handOut_nothingNew (i : Fin 48) (sts : List Stamp) (h : Hub) : h.NothingNew (handOut i sts h) := by
  induction sts generalizing h with
  | nil => exact .refl h
  | cons st sts ih =>
    rw [handOut]
    repeat' split
    · exact ((h.setPart_nothingNew i _).trans (deliver_nothingNew _ _ _ _)).trans (ih _)
    · exact .refl h
    · exact .refl h

theorem setReclaimed_nothingNew (h : Hub) (i : Fin 48) (q : Queue) : h.NothingNew (h.setReclaimed i q) := by
  have set : h.NothingNew (h.setPart i (.queue q.reclaim)) := h.setPart_nothingNew i _
  unfold setReclaimed
  dsimp only
  repeat' split
  · exact set.trans (freeSlotAt_nothingNew _ i)
  · exact set
  · exact set
  · exact set

/-! ### The engine's items other than requests -/

theorem freeWaiter_nothingNew (h : Hub) (st : Stamp) : h.NothingNew (h.freeWaiter st) := by
  unfold freeWaiter
  repeat' split
  · exact .refl h
  · exact .of_same rfl rfl
  · exact .refl h

theorem spendMessage_nothingNew (h : Hub) (l : Link) (ref : MessageRef) (session : Nat) (c : Carrier) :
    h.NothingNew (h.spendMessage l ref session c) := by
  unfold spendMessage
  repeat' split
  · exact .refl h
  · exact .refl h
  · exact h.setReclaimed_nothingNew _ _
  · exact .refl h

theorem expire_nothingNew (h : Hub) (st : Stamp) : h.NothingNew (h.expire st) := by
  have expired (h : Hub) (w : Waiter) : h.NothingNew (h.expireRecord w) := .of_same rfl rfl
  unfold expire
  repeat' split
  · exact .refl h
  · exact ((h.setWaitListAt_nothingNew _ _).trans (expired _ _)).trans (passIfHead_nothingNew _ _ _)
  · exact expired h _
  · exact .refl h

theorem purgeWaiters_nothingNew (h : Hub) (l : Link) (i : Fin 48) : h.NothingNew (h.purgeWaiters l i) := by
  rw [purgeWaiters_eq]
  exact (h.setWaitListAt_nothingNew i _).trans (.of_same rfl rfl)

theorem purgeResource_nothingNew (h : Hub) (l : Link) (i : Fin 48) (r : Resource) : h.NothingNew (h.purgeResource l i r) := by
  unfold purgeResource
  have set (p : Part) := (h.purgeWaiters_nothingNew l i).trans (setPart_nothingNew _ i p)
  dsimp only
  split
  · exact (set _).trans (grantPass_nothingNew _ i)
  · exact set _

theorem purgeSignal_nothingNew (h : Hub) (l : Link) (i : Fin 48) : h.NothingNew (h.purgeSignal l i) := by
  unfold purgeSignal
  dsimp only
  split
  · exact (h.purgeWaiters_nothingNew l i).trans (grantPass_nothingNew _ i)
  · exact h.purgeWaiters_nothingNew l i

theorem purgeLiveQueue_nothingNew (h : Hub) (l : Link) (i : Fin 48) (q : Queue) :
    h.NothingNew (h.purgeLiveQueue l i q).1 :=
  ((h.purgeWaiters_nothingNew l i).trans (setPart_nothingNew _ i _)).trans (handOut_nothingNew i _ _)

theorem purgeDrainingQueue_nothingNew (h : Hub) (l : Link) (i : Fin 48) (q : Queue) :
    h.NothingNew (h.purgeDrainingQueue l i q) :=
  (h.purgeWaiters_nothingNew l i).trans (setReclaimed_nothingNew _ i _)

theorem purgeSlot_nothingNew (l : Link) (h : Hub) (i : Fin 48) : h.NothingNew (purgeSlot l h i).1 := by
  unfold purgeSlot
  repeat' split
  · exact .refl h
  · exact h.purgeResource_nothingNew l i _
  · exact h.purgeSignal_nothingNew l i
  · exact h.purgeLiveQueue_nothingNew l i _
  · exact h.purgeDrainingQueue_nothingNew l i _
  · exact .refl h
  · exact .refl h

theorem purgeSlots_nothingNew (l : Link) (is : List (Fin 48)) (h : Hub) : h.NothingNew (purgeSlots l is h).1 := by
  induction is generalizing h with
  | nil => exact .refl h
  | cons i is ih => exact (purgeSlot_nothingNew l h i).trans (ih _)

theorem leaveEnding_nothingNew (h : Hub) (l : Link) : h.NothingNew (h.leaveEnding l) := by
  rw [leaveEnding_frame]; exact .of_same rfl rfl

theorem purgeCompletion_nothingNew (h : Hub) (l : Link) : h.NothingNew (h.purgeCompletion l) := by
  unfold purgeCompletion
  split
  · exact h.leaveEnding_nothingNew l
  · exact .refl h

theorem purge_nothingNew (h : Hub) (l : Link) : h.NothingNew (h.purge l) := by
  unfold purge
  have records (h : Hub) : h.NothingNew { h with waiters := h.waiters.filter fun w => w.link ≠ l } := .of_same rfl rfl
  exact (((purgeSlots_nothingNew l slotNumbers h).trans (records _)).trans
    (.foldl signalCompanion_nothingNew _ _)).trans (purgeCompletion_nothingNew _ l)

theorem hubReset_nothingNew (h : Hub) (l : Link) (rq : Request) : h.NothingNew (h.hubReset l rq) := by
  rcases right : h.manages l
  · have refused : h.hubReset l rq = h.refuse l rq .denied := by simp [hubReset, right]
    rw [refused]; exact .of_same rfl rfl
  · rw [hubReset_frame rq right]
    refine ⟨fun i => ?_, fun m _ mem => ?_⟩
    · simp only [slot, Fin.getElem_fin, Vector.getElem_map]; exact Slot.follows_atHubReset _
    · simp [intake] at mem

/-! ### SET_ACCESS and CREATE: one slot gets an object of its own -/

theorem objAt_setSlot (h : Hub) (i j : Fin 48) (sl : Slot) :
    (h.setSlot i sl).objAt j = if i = j then sl.state.obj else h.objAt j := by
  unfold objAt
  rw [slot_setSlot]
  split <;> rfl

theorem setSlot_generationsLegal {h : Hub} (i : Fin 48) (st : SlotState) (legal : h.GenerationsLegal) :
    (h.setSlot i { gen := (h.slot i).gen, state := st }).GenerationsLegal := by
  intro j
  rw [slot_setSlot]
  split
  · exact legal i
  · exact legal j

/-- An object that fits among the others: its creator has access, its name is legal and none of the others has it. -/
structure Fits (h : Hub) (i : Fin 48) (o : Obj) : Prop where
  access : LinkSet.has o.access o.creator = true
  legal : ∀ n, o.name = some n → n ≠ [] ∧ n.length ≤ 8 ∧ n.all nameByteOk = true
  alone : ∀ n j oj, o.name = some n → j ≠ i → h.objAt j = some oj → oj.name ≠ some n

theorem setSlot_namesAndAccess {h : Hub} {i : Fin 48} {o : Obj} {g : Nat} (fits : h.Fits i o) (named : h.NamesAndAccess) :
    (h.setSlot i { gen := g, state := .live o }).NamesAndAccess := by
  obtain ⟨each, distinct⟩ := named
  refine ⟨fun j x is => ?_, fun j k oj ok n isj isk nj nk => ?_⟩
  · rw [objAt_setSlot] at is
    split at is
    · cases is; exact ⟨fits.access, fits.legal⟩
    · exact each j x is
  · rw [objAt_setSlot] at isj isk
    split at isj <;> split at isk
    · exact ‹i = j›.symm.trans ‹i = k›
    · cases isj; exact absurd nk (fits.alone n k ok nj (Ne.symm ‹_›) isk)
    · cases isk; exact absurd nj (fits.alone n j oj nk (Ne.symm ‹_›) isj)
    · exact distinct j k oj ok n isj isk nj nk

/-- A new access set that holds the creator lets the object fit as it did. -/
theorem NamesAndAccess.fits_access {h : Hub} {i : Fin 48} {o : Obj} {access : LinkSet} (named : h.NamesAndAccess)
    (live : (h.slot i).state = .live o) (has : LinkSet.has access o.creator = true) : h.Fits i { o with access := access } := by
  obtain ⟨each, distinct⟩ := named
  have there : h.objAt i = some o := by simp only [objAt, live, SlotState.obj]
  refine ⟨has, (each i o there).2, fun n j oj is ne isj nj => ne (distinct j i oj o n isj there nj is)⟩

theorem setAccess_keepsNames {h : Hub} {l : Link} {rq : Request} {hd : Handle} {access : Byte}
    (body : rq.body = .setAccess hd access) (passes : h.refusal l rq = none) : h.KeepsNames (h.setAccess l rq hd access) := by
  obtain ⟨i, o, -, live, has, eq⟩ := (h.setAccess_spec l rq hd access body).2 passes
  rw [eq]
  refine .trans ⟨fun legal => setSlot_generationsLegal i _ legal, fun spelled named => ⟨spelled, ?_⟩⟩
    (reply_nothingNew _ _ _ _ _ _).keepsNames
  exact setSlot_namesAndAccess (named.fits_access live has) named

/-- What passing the checks of a CREATE request says of its fields (R11). -/
theorem createChecklist_passed {h : Hub} {l : Link} {c : CreateCommon} (passes : firstFailing (h.createChecklist l c) = none) :
    (c.name ≠ [] → h.findName c.name = none) ∧ c.name.all nameByteOk = true ∧
      LinkSet.has (linkSetOf c.access) l = true := by
  simp only [createChecklist, firstFailing_cons, firstFailing_nil] at passes
  split at passes
  · cases passes
  · split at passes
    · cases passes
    · split at passes
      · cases passes
      · simp_all

theorem findName_none {h : Hub} {name : List Byte} (no : h.findName name = none) {j : Fin 48} {o : Obj}
    (there : h.objAt j = some o) : o.name ≠ some name := by
  have not := List.find?_eq_none.1 no j (List.mem_finRange j)
  simpa [there] using not

end Hub

/-- The common fields of a CREATE request (R11). -/
def ObjReq.common? : ObjReq → Option CreateCommon
  | .createResource c .. | .createSignal c .. | .createQueue c .. => some c
  | .delete _ | .lookup _ | .query _ | .setAccess .. | .reclaim _ | .acquire .. | .release .. | .signal .. | .wait ..
  | .cancel _ | .send .. | .receive .. | .flush _ | .evict _ | .hubReset => none

/-- A name that a well-formed body spells has at most 8 bytes (R178). -/
theorem createFields_name_length {k : ReqKind} {body : List Byte} (first : k.lengthByteAt = some 0)
    (wf : bodyWellFormed k body = true) : (createFields body).name.length ≤ 8 := by
  have le : field body 0 ≤ 8 := by
    cases k <;> simp only [ReqKind.lengthByteAt, Option.some.injEq, reduceCtorEq, OfNat.ofNat_ne_zero] at first
    all_goals
      simp only [bodyWellFormed, ReqKind.lengthByteAt] at wf
      rcases byte : body[0]? with _ | n
      · simp [byte] at wf
      · simp [byte] at wf
        simp [field, byte, wf]
  simp only [createFields, fieldBytes, List.length_take]
  omega

theorem common_name_length {k : ReqKind} {tag : Byte} {body : List Byte} {r : ObjReq} {c : CreateCommon}
    (wf : bodyWellFormed k body = true) (spells : requestOf k tag body = .object r) (is : r.common? = some c) :
    c.name.length ≤ 8 := by
  cases k <;> simp only [requestOf, ClientRequest.object.injEq, reduceCtorEq] at spells
  all_goals subst spells; simp only [ObjReq.common?, Option.some.injEq, reduceCtorEq] at is
  all_goals subst is; exact createFields_name_length rfl wf

namespace Hub

/-- The item that the arbiter gives stands on the intake of its link. -/
theorem mem_of_turn {h : Hub} {l : Link} {item : Item} (turn : h.turn = some (.item l item)) : item ∈ h.intake l := by
  obtain ⟨source, -, head⟩ := List.exists_of_findSome?_eq_some turn
  cases source with
  | link m =>
    obtain ⟨x, first, eq⟩ := Option.map_eq_some_iff.1 head
    cases eq
    exact List.mem_of_head? first
  | timebase =>
    obtain ⟨x, -, eq⟩ := Option.map_eq_some_iff.1 head
    cases eq

/-- An accepted CREATE request that the engine took from an intake. -/
theorem created_keepsNames {h h' : Hub} {l : Link} {rq : Request} {c : CreateCommon} {p : Part} (takes : h.Takes l rq)
    (is : rq.body.common? = some c) (passes : firstFailing (h.createChecklist l c) = none)
    (new : (h.takeFrom l).Created l rq c p h') : h.KeepsNames h' := by
  obtain ⟨i, -, -, rfl⟩ := new
  rw [create_eq]
  have taken := (h.takeFrom_nothingNew l).keepsNames
  refine .trans ⟨fun legal => setSlot_generationsLegal i _ (taken.generations legal), fun spelled named => ?_⟩
    (reply_nothingNew _ _ _ _ _ _).keepsNames
  obtain ⟨spelled', named'⟩ := taken.names spelled named
  refine ⟨spelled', setSlot_namesAndAccess ?_ named'⟩
  obtain ⟨unused, legal, has⟩ := createChecklist_passed passes
  obtain ⟨k, body, wf, spells⟩ := spelled l rq (mem_of_turn takes)
  have name {n : List Byte} (eq : (if c.name = [] then none else some c.name) = some n) : c.name ≠ [] ∧ c.name = n := by
    split at eq
    · cases eq
    · exact ⟨‹_›, Option.some.inj eq⟩
  refine ⟨has, fun n eq => ?_, fun n j oj eq _ there => ?_⟩
  · obtain ⟨used, rfl⟩ := name eq
    exact ⟨used, common_name_length wf spells is, legal⟩
  · obtain ⟨used, rfl⟩ := name eq
    exact findName_none (unused used) there

/-! ### The requests that the engine takes -/

theorem acceptSend_nothingNew (h : Hub) (l : Link) (rq : Request) (i : Fin 48) (q : Queue) (payload : List Byte) :
    h.NothingNew (h.acceptSend l rq i q payload) := by
  have sent (p : Part) (body : List Byte) :
      h.NothingNew (((h.storeMessage q payload).setPart i p).reply l rq .ok body none) :=
    have stored : h.NothingNew (h.storeMessage q payload) := .of_same rfl rfl
    (stored.trans (setPart_nothingNew _ i p)).trans (reply_nothingNew _ _ _ _ _ _)
  unfold acceptSend
  dsimp only
  split
  · exact (sent _ _).trans (deliver_nothingNew _ _ _ _)
  · split
    · exact (sent _ _).trans (signalCompanion_nothingNew _ _)
    · exact sent _ _

theorem cancelWaiting_nothingNew (h : Hub) (l : Link) (rq : Request) (w : Waiter) :
    h.NothingNew (h.cancelWaiting l rq w) := by
  have freed (h : Hub) : h.NothingNew ((if w.deadline.isSome then h.removeClaim w.stamp else h).freeRecord w.stamp) := by
    split <;> exact .of_same rfl rfl
  unfold cancelWaiting
  dsimp only
  split
  · exact (((h.setWaitListAt_nothingNew _ _).trans (freed _)).trans (reply_nothingNew _ _ _ _ _ _)).trans
      (passIfHead_nothingNew _ _ _)
  · exact (freed h).trans (reply_nothingNew _ _ _ _ _ _)

theorem deleteQueue_nothingNew {h : Hub} (l : Link) (rq : Request) {i : Fin 48} {o : Obj} (q : Queue)
    (live : (h.slot i).state = .live o) : h.NothingNew (h.deleteQueue l rq i o q) := by
  have abandoned : h.NothingNew (q.waitList.foldl abandon (h.reply l rq .ok [] none)) :=
    (h.reply_nothingNew l rq .ok [] none).trans (.foldl abandon_nothingNew _ _)
  have same : (q.waitList.foldl abandon (h.reply l rq .ok [] none)).slot i = h.slot i := by simp [slot]
  rw [deleteQueue_eq]
  refine abandoned.trans (setSlot_nothingNew ?_)
  rw [same]
  split
  · exact (h.slot i).follows_freed
  · exact ⟨id, fun o' is => ⟨o, by rw [live]; rfl, by cases is; exact ⟨rfl, rfl, rfl⟩⟩⟩

/-- A request that no check refuses, other than CREATE and SET_ACCESS, makes no object and no request. -/
theorem perform_nothingNew {h : Hub} {l : Link} {rq : Request} (ticks : Nat) (passes : h.refusal l rq = none)
    (noCreate : rq.body.common? = none) (noAccess : ∀ hd access, rq.body ≠ .setAccess hd access) :
    h.NothingNew (rq.body.perform ticks l rq h) := by
  cases body : rq.body with
  | createResource c => rw [body] at noCreate; cases noCreate
  | createSignal c => rw [body] at noCreate; cases noCreate
  | createQueue c => rw [body] at noCreate; cases noCreate
  | delete hd =>
    obtain ⟨i, o, -, live, eq⟩ := (h.delete_spec l rq hd body).2 passes
    rw [ObjReq.perform, eq]
    split
    · exact (h.freeSlotAt_nothingNew i).trans (reply_nothingNew _ _ _ _ _ _)
    · exact ((h.reply_nothingNew _ _ _ _ _).trans (.foldl abandon_nothingNew _ _)).trans (freeSlotAt_nothingNew _ i)
    · exact deleteQueue_nothingNew l rq _ live
  | lookup name =>
    obtain ⟨i, o, -, -, eq⟩ := (h.lookup_spec l rq name body).2 passes
    rw [ObjReq.perform, eq]; exact reply_nothingNew _ _ _ _ _ _
  | query hd =>
    obtain ⟨i, o, -, -, eq⟩ := (h.query_spec l rq hd body).2 passes
    rw [ObjReq.perform, eq]; exact reply_nothingNew _ _ _ _ _ _
  | setAccess hd access => exact absurd body (noAccess hd access)
  | reclaim hd =>
    obtain ⟨i, o, r, -, live, -, -, eq⟩ := (h.reclaimTokens_spec l rq hd body).2 passes
    rw [ObjReq.perform, eq]
    exact ((setLive_nothingNew live _).trans (reply_nothingNew _ _ _ _ _ _)).trans (grantPass_nothingNew _ i)
  | acquire hd amount priority timeout =>
    obtain ⟨i, o, r, -, live, -, atOnce, blocked⟩ := (h.acquire_spec ticks l rq hd amount priority timeout body).2 passes
    rcases b : h.acquireBlocked hd amount
    · obtain ⟨-, -, eq⟩ := atOnce b
      rw [ObjReq.perform, eq]; exact (setLive_nothingNew live _).trans (reply_nothingNew _ _ _ _ _ _)
    · rw [ObjReq.perform, blocked b]
      have waits := h.makeWaiter_nothingNew ticks l rq hd i o.discipline .acquire amount priority timeout
      split
      · exact waits.trans (grantPass_nothingNew _ i)
      · exact waits
  | release hd amount =>
    obtain ⟨i, o, r, -, live, -, -, eq⟩ := (h.release_spec l rq hd amount body).2 passes
    rw [ObjReq.perform, eq]
    exact ((setLive_nothingNew live _).trans (reply_nothingNew _ _ _ _ _ _)).trans (grantPass_nothingNew _ i)
  | signal hd amount =>
    obtain ⟨i, o, r, -, live, -, -, eq⟩ := (h.signal_spec l rq hd amount body).2 passes
    rw [ObjReq.perform, eq]
    exact ((setLive_nothingNew live _).trans (reply_nothingNew _ _ _ _ _ _)).trans (grantPass_nothingNew _ i)
  | wait hd priority timeout =>
    obtain ⟨i, o, g, -, live, -, atOnce, blocked⟩ := (h.wait_spec ticks l rq hd priority timeout body).2 passes
    rcases b : h.waitBlocked hd
    · obtain ⟨-, -, eq⟩ := atOnce b
      rw [ObjReq.perform, eq]; exact (setLive_nothingNew live _).trans (reply_nothingNew _ _ _ _ _ _)
    · rw [ObjReq.perform, blocked b]; exact h.makeWaiter_nothingNew _ _ _ _ _ _ _ _ _ _
  | cancel tag =>
    obtain ⟨w, -, -, -, -, eq⟩ := (h.cancel_spec l rq tag body).2 passes
    rw [ObjReq.perform, eq]; exact h.cancelWaiting_nothingNew l rq w
  | send hd payload =>
    obtain ⟨i, o, q, -, -, -, -, -, -, eq⟩ := (h.send_spec l rq hd payload body).2 passes
    rw [ObjReq.perform, eq]; exact h.acceptSend_nothingNew l rq i q payload
  | receive hd priority timeout =>
    obtain ⟨i, o, q, -, live, -, atOnce, blocked⟩ := (h.receive_spec ticks l rq hd priority timeout body).2 passes
    rcases b : h.receiveBlocked hd
    · obtain ⟨older, m, newer, -, -, -, eq⟩ := atOnce b
      rw [ObjReq.perform, eq]; exact (setLive_nothingNew live _).trans (reply_nothingNew _ _ _ _ _ _)
    · rw [ObjReq.perform, blocked b]; exact h.makeWaiter_nothingNew _ _ _ _ _ _ _ _ _ _
  | flush hd =>
    obtain ⟨i, o, q, -, live, -, eq⟩ := (h.flush_spec l rq hd body).2 passes
    rw [ObjReq.perform, eq]; exact (setLive_nothingNew live _).trans (reply_nothingNew _ _ _ _ _ _)
  | evict target =>
    obtain ⟨t, -, -, eq⟩ := (h.evict_spec l rq target body).2 passes
    rw [ObjReq.perform, eq]; exact .of_same rfl rfl
  | hubReset => exact h.hubReset_nothingNew l rq

/-- A CREATE request that no check refuses passes the checks of R11 and makes its object. -/
theorem perform_created {h : Hub} {l : Link} {rq : Request} {c : CreateCommon} (ticks : Nat)
    (is : rq.body.common? = some c) (passes : h.refusal l rq = none) :
    firstFailing (h.createChecklist l c) = none ∧ ∃ p, h.Created l rq c p (rq.body.perform ticks l rq h) := by
  have checklist {more : List (Bool × ResultCode)} (all : h.checks l rq = h.createChecklist l c ++ more) :
      firstFailing (h.createChecklist l c) = none := by
    rw [refusal, all, firstFailing_append] at passes
    exact (Option.or_eq_none_iff.1 passes).1
  cases body : rq.body <;> rw [body] at is <;> cases is
  case createResource limit robust =>
    exact ⟨checklist (by simp only [checks, body]; rfl), _, (h.createResource_spec l rq c limit robust body).2 passes⟩
  case createSignal limit initial =>
    exact ⟨checklist (by simp only [checks, body]; rfl), _, (h.createSignal_spec l rq c limit initial body).2 passes⟩
  case createQueue base blocks maxEntries maxLength threshold present companion =>
    exact ⟨checklist (by simp only [checks, body, List.append_assoc]; rfl), _,
      (h.createQueue_spec l rq c base blocks maxEntries maxLength threshold present companion body).2 passes⟩

/-- A request that the engine takes keeps the generations legal and the names. -/
theorem request_keepsNames {h : Hub} {l : Link} {rq : Request} (ticks : Nat) (takes : h.Takes l rq) :
    h.KeepsNames (rq.body.perform ticks l rq (h.takeFrom l)) := by
  have taken := h.takeFrom_nothingNew l
  rcases passes : h.refusal l rq with _ | code
  · rcases create : rq.body.common? with _ | c
    · by_cases access : ∃ hd access, rq.body = .setAccess hd access
      · obtain ⟨hd, access, body⟩ := access
        rw [body]
        exact taken.keepsNames.trans (setAccess_keepsNames body passes)
      · exact (taken.trans (perform_nothingNew ticks passes create (by simpa using access))).keepsNames
    · obtain ⟨checked, p, new⟩ := perform_created (h := h.takeFrom l) ticks create passes
      exact created_keepsNames takes create checked new
  · rw [perform_refused ticks (h := h.takeFrom l) passes]
    exact (taken.trans (reply_nothingNew _ _ _ _ _ _)).keepsNames

end Hub
end Sys2Proof.Machine
end


section
/-! The commands, for the names: a command of the engine performs the item that the arbiter gives or does nothing; a command at a
link adds at most the request of a good frame, which the frame's well-formed body spells. -/

namespace Sys2Proof.Machine

namespace Hub

/-! ### Frames that a delimiter closes -/

theorem linkAnswer_nothingNew (h : Hub) (l : Link) (slot : Fin 4) (kind tag : Byte) (code : ResultCode) (body : List Byte) :
    h.NothingNew (h.linkAnswer l slot kind tag code body) := .of_same rfl rfl

theorem modLink_nothingNew (h : Hub) (l : Link) (f : LinkState → LinkState) : h.NothingNew (h.modLink l f) := .of_same rfl rfl

/-- A well-formed object request is spelled by its frame's body (R130, R179). -/
theorem verdict_spells {f : RxFrame} {r : ObjReq} (verdict : f.verdict = .wellFormed (.object r)) :
    ∃ k body, bodyWellFormed k body = true ∧ requestOf k f.tag body = .object r := by
  unfold RxFrame.verdict at verdict
  split at verdict
  · cases verdict
  · split at verdict
    · cases verdict
    · split at verdict
      · exact ⟨_, f.body, ‹_›, Verdict.wellFormed.inj verdict⟩
      · cases verdict

/-- The fields of a request appended to an intake are those that its frame's body spells (R150, R178). -/
theorem serveRequest_keepsNames {h : Hub} {l : Link} {f : RxFrame} {r : ObjReq} (slot : Fin 4)
    (verdict : f.verdict = .wellFormed (.object r)) : h.KeepsNames (h.serveRequest l slot f r) := by
  unfold serveRequest
  split
  · refine ⟨id, fun spelled named => ⟨fun m rq mem => ?_, named⟩⟩
    by_cases ne : m = l
    · subst m
      simp only [appendIntake, intake_setIntake_self, List.mem_append, List.mem_singleton, Item.request.injEq] at mem
      rcases mem with mem | rfl
      · exact spelled l rq mem
      · exact verdict_spells verdict
    · rw [appendIntake, intake_setIntake_other _ _ ne] at mem
      exact spelled m rq mem
  · exact (h.linkAnswer_nothingNew _ _ _ _ _ _).keepsNames

theorem endSession_nothingNew (h : Hub) (l : Link) (cause : EndCause) (tag : Byte) (held : Option Hello) :
    h.NothingNew (h.endSession l cause tag held) := .of_same rfl rfl

theorem serveHello_nothingNew (h : Hub) (l : Link) (slot : Fin 4) (f : RxFrame) (he : Hello) :
    h.NothingNew (h.serveHello l slot f he) := by
  unfold serveHello
  split
  · split
    · exact h.endSession_nothingNew _ _ _ _
    · exact h.linkAnswer_nothingNew _ _ _ _ _ _
  · rw [answerHello_frame]; exact .of_same rfl rfl

theorem serveBye_nothingNew (h : Hub) (l : Link) (slot : Fin 4) (f : RxFrame) : h.NothingNew (h.serveBye l slot f) := by
  unfold serveBye
  split
  · exact h.endSession_nothingNew _ _ _ _
  · exact h.linkAnswer_nothingNew _ _ _ _ _ _

theorem servePing_nothingNew (h : Hub) (l : Link) (slot : Fin 4) (f : RxFrame) : h.NothingNew (h.servePing l slot f) := by
  unfold servePing
  split <;> exact h.linkAnswer_nothingNew _ _ _ _ _ _

theorem serveLinkStatus_nothingNew (h : Hub) (l : Link) (slot : Fin 4) (f : RxFrame) (target : Nat) :
    h.NothingNew (h.serveLinkStatus l slot f target) := by
  unfold serveLinkStatus
  repeat' split
  all_goals exact h.linkAnswer_nothingNew _ _ _ _ _ _

theorem serve_keepsNames (h : Hub) (l : Link) (slot : Fin 4) (f : RxFrame) : h.KeepsNames (h.serve l slot f) := by
  unfold serve
  split
  · exact (h.linkAnswer_nothingNew _ _ _ _ _ _).keepsNames
  · exact (h.linkAnswer_nothingNew _ _ _ _ _ _).keepsNames
  · exact (h.serveHello_nothingNew _ _ _ _).keepsNames
  · exact (h.serveBye_nothingNew _ _ _).keepsNames
  · exact (h.servePing_nothingNew _ _ _).keepsNames
  · exact (h.serveLinkStatus_nothingNew _ _ _ _).keepsNames
  · exact serveRequest_keepsNames slot ‹_›

theorem goodFrameEnding_nothingNew (h : Hub) (l : Link) (f : RxFrame) : h.NothingNew (h.goodFrameEnding l f) := by
  unfold goodFrameEnding
  split
  · exact h.modLink_nothingNew l _
  all_goals exact .refl h

theorem goodFrame_keepsNames (h : Hub) (l : Link) (f : RxFrame) : h.KeepsNames (h.goodFrame l f) := by
  unfold goodFrame
  split
  · exact (h.goodFrameEnding_nothingNew l f).keepsNames
  · have restarted := h.modLink_nothingNew l LinkState.restartKeepalive
    dsimp only
    split
    · exact (restarted.trans (modLink_nothingNew _ l _)).keepsNames
    · exact (restarted.trans (modLink_nothingNew _ l _)).keepsNames.trans (serve_keepsNames _ l _ f)

theorem closeFrame_keepsNames (h : Hub) (l : Link) : h.KeepsNames (h.closeFrame l) := by
  unfold closeFrame
  split
  · exact (h.modLink_nothingNew l _).keepsNames
  · exact (h.modLink_nothingNew l _).keepsNames.trans (goodFrame_keepsNames _ l _)

theorem closeGood_keepsNames (h : Hub) (l : Link) (sort : Option ReqKind → Bool) : h.KeepsNames (h.closeGood l sort) := by
  unfold closeGood
  split
  · exact h.closeFrame_keepsNames l
  · exact (NothingNew.refl h).keepsNames

theorem goodCharacter_keepsNames (h : Hub) (l : Link) (v : Byte) : h.KeepsNames (h.goodCharacter l v) := by
  unfold goodCharacter
  split
  · exact h.closeFrame_keepsNames l
  · exact (h.modLink_nothingNew l _).keepsNames

/-! ### The other events at a link and of the timebase -/

theorem catchUp_nothingNew (h : Hub) : h.NothingNew h.catchUp := .of_same (catchUp_slots h) (catchUp_intakes h)

theorem moveDue_nothingNew (h : Hub) : h.NothingNew h.moveDue := .of_same rfl rfl

theorem takeExpiry_nothingNew (h : Hub) : h.NothingNew h.takeExpiry := .of_same rfl rfl

theorem tickEvent_nothingNew (h : Hub) : h.NothingNew h.tickEvent := .of_same rfl rfl

theorem charTime_nothingNew (h : Hub) : h.NothingNew h.charTime :=
  .foldl (fun h l => h.modLink_nothingNew l LinkState.charTime) Link.all h

theorem lapse_nothingNew (h : Hub) (l : Link) : h.NothingNew (h.lapse l) := by
  rw [lapse_frame]; exact .of_same rfl rfl

theorem reset_nothingNew (h : Hub) (p : Straps) : h.NothingNew (Hub.reset p) where
  slots := fun i => by
    rw [slot_reset]
    exact ⟨fun _ => ⟨Nat.le_refl 1, Nat.le_of_ble_eq_true rfl⟩, fun _ is => nomatch is⟩
  requests := fun l _ mem => by rw [intake_reset] at mem; cases mem

theorem lineBreak_nothingNew (h : Hub) (l : Link) : h.NothingNew (h.lineBreak l) := by
  unfold lineBreak
  split
  · exact .refl h
  · have settles := h.modLink_nothingNew l fun k => { k with asm := .settling, buffer := [] }
    split
    · exact settles
    · exact settles.trans (endSession_nothingNew _ l _ _ _)
    · exact settles.trans (modLink_nothingNew _ l _)

/-- A teardown places reports and the purge item, and withdraws requests (R107, R154). -/
theorem tearDown_nothingNew (h : Hub) (l : Link) (t : Teardown) : h.NothingNew (h.tearDown l t) := by
  have set : h.NothingNew (h.setLink l ((h.link l).takeDown t).1) := .of_same rfl rfl
  refine set.trans (setIntake_nothingNew fun rq mem => ?_)
  have reports : .request rq ∉ (((h.link l).takeDown t).2.map TxItem.reports).getD [] := by
    rcases ((h.link l).takeDown t).2 with _ | item
    · exact List.not_mem_nil
    · exact reports_noRequest item rq
  simp only [List.mem_append, List.mem_filter, List.mem_singleton, reduceCtorEq, or_false] at mem
  exact mem.1.resolve_right reports

theorem frameCompletes_nothingNew (h : Hub) (l : Link) : h.NothingNew (h.frameCompletes l) := by
  unfold frameCompletes
  dsimp only
  split
  · rename_i t item more _ _
    split
    · exact .refl h
    · refine NothingNew.trans (h' := h.setLink l _) (.of_same rfl rfl) (setIntake_nothingNew fun rq mem => ?_)
      exact (List.mem_append.1 mem).resolve_right (reports_noRequest item rq)
  · exact .refl h

/-! ### The engine takes the item that the arbiter gives (R108) -/

/-- A command that takes a request does nothing, or it performs a request that the arbiter gives. -/
theorem onRequest_cases (h : Hub) (perform : Link → Request → Hub → Option Hub) :
    h.onRequest perform = h ∨ ∃ l rq, h.Takes l rq ∧ ∃ h', perform l rq (h.takeFrom l) = some h' := by
  unfold onRequest
  split
  · rename_i l rq turn
    rcases done : perform l rq (h.takeFrom l) with _ | h'
    · exact Or.inl rfl
    · exact Or.inr ⟨l, rq, turn, h', done⟩
  all_goals exact Or.inl rfl

end Hub

/-- A command of the engine does nothing but the catching up, unless it is the command of the arbiter's item. -/
theorem exec_item {c : Instr} (s : State) (takes : c.takesItem = true) :
    exec c s = .next (s.withHub s.toHub.catchUp) ∨
      ∃ ticks turn, s.toHub.catchUp.turn = some turn ∧ turn.command ticks = c := by
  have request {perform : Link → Request → Hub → Option Hub} (ticks : Nat)
      (own : ∀ l rq h h', perform l rq h = some h' → rq.body.command ticks = c) :
      s.onHub (fun h => h.onRequest perform) = .next (s.withHub s.toHub.catchUp) ∨
        ∃ ticks turn, s.toHub.catchUp.turn = some turn ∧ turn.command ticks = c := by
    rw [State.onHub_next]
    rcases s.toHub.catchUp.onRequest_cases perform with same | ⟨l, rq, turn, h', done⟩
    · exact Or.inl (by rw [same])
    · exact Or.inr ⟨ticks, _, turn, own l rq _ h' done⟩
  cases c
  case freeWaiter | spendMessage | purge | expiry =>
    simp only [exec, execFreeWaiter, execSpendMessage, execPurge, execExpiry, State.onHub_next]
    split
    · exact Or.inr ⟨0, _, ‹_›, rfl⟩
    · exact Or.inl rfl
  case acquire ticks | wait ticks | receive ticks =>
    refine request ticks fun l rq h h' done => ?_
    split at done
    · rename_i body; rw [body]; rfl
    · cases done
  case createResource | createSignal | createQueue | delete | lookup | query | setAccess | reclaim | release | signal |
      cancel | send | flush | evict | hubReset =>
    refine request 0 fun l rq h h' done => ?_
    split at done
    · rename_i body; rw [body]; rfl
    · cases done
  all_goals cases takes

theorem exec_freeWaiter {s : State} {l : Link} {st : Stamp} (turn : s.toHub.catchUp.turn = some (.item l (.freeWaiter st))) :
    exec .freeWaiter s = .next (s.withHub ((s.toHub.catchUp.takeFrom l).freeWaiter st)) := by
  simp only [exec, execFreeWaiter, State.onHub_next, turn]

theorem exec_purge {s : State} {l : Link} (turn : s.toHub.catchUp.turn = some (.item l .purge)) :
    exec .purge s = .next (s.withHub ((s.toHub.catchUp.takeFrom l).purge l)) := by
  simp only [exec, execPurge, State.onHub_next, turn]

theorem exec_expiry {s : State} {st : Stamp} (turn : s.toHub.catchUp.turn = some (.expiry st)) :
    exec .expiry s = .next (s.withHub (s.toHub.catchUp.takeExpiry.moveDue.expire st)) := by
  simp only [exec, execExpiry, State.onHub_next, turn]

/-! ### Every command, every step -/

/-- What a command leaves of the hub, for a command whose next state is known. -/
theorem keepsNames_of_exec {c : Instr} {s : State} {h : Hub} (run : exec c s = .next (s.withHub h))
    (keeps : s.toHub.KeepsNames h) : ∃ t, exec c s = .next t ∧ s.toHub.KeepsNames t.toHub := ⟨_, run, keeps⟩

theorem exec_item_keepsNames {c : Instr} (s : State) (takes : c.takesItem = true) :
    ∃ t, exec c s = .next t ∧ s.toHub.KeepsNames t.toHub := by
  have caught := s.toHub.catchUp_nothingNew
  have taken (l : Link) := caught.trans (s.toHub.catchUp.takeFrom_nothingNew l)
  rcases exec_item s takes with idle | ⟨ticks, turn, given, rfl⟩
  · exact keepsNames_of_exec idle caught.keepsNames
  · match turn with
    | .item l (.request rq) =>
      exact keepsNames_of_exec (exec_request ticks given) (caught.keepsNames.trans (Hub.request_keepsNames ticks given))
    | .item l (.freeWaiter st) =>
      exact keepsNames_of_exec (exec_freeWaiter given) ((taken l).trans (Hub.freeWaiter_nothingNew _ st)).keepsNames
    | .item l (.spendMessage ref session c) =>
      exact keepsNames_of_exec (exec_spendMessage given)
        ((taken l).trans (Hub.spendMessage_nothingNew _ l ref session c)).keepsNames
    | .item l .purge =>
      exact keepsNames_of_exec (exec_purge given) ((taken l).trans (Hub.purge_nothingNew _ l)).keepsNames
    | .expiry st =>
      have due := (caught.trans (Hub.takeExpiry_nothingNew _)).trans (Hub.moveDue_nothingNew _)
      exact keepsNames_of_exec (exec_expiry given) (due.trans (Hub.expire_nothingNew _ st)).keepsNames

theorem State.onHub_keepsNames (s : State) {f : Hub → Hub} (keeps : ∀ h : Hub, h.KeepsNames (f h)) :
    ∃ t, s.onHub f = .next t ∧ s.toHub.KeepsNames t.toHub :=
  ⟨_, s.onHub_next f, s.toHub.catchUp_nothingNew.keepsNames.trans (keeps _)⟩

theorem State.onHub_nothingNew (s : State) {f : Hub → Hub} (nothing : ∀ h : Hub, h.NothingNew (f h)) :
    ∃ t, s.onHub f = .next t ∧ s.toHub.KeepsNames t.toHub :=
  s.onHub_keepsNames fun h => (nothing h).keepsNames

theorem exec_keepsNames (c : Instr) (s : State) : ∃ t, exec c s = .next t ∧ s.toHub.KeepsNames t.toHub := by
  by_cases takes : c.takesItem = true
  · exact exec_item_keepsNames s takes
  · cases c <;> dsimp only [exec]
    case pinReset p => exact s.onHub_nothingNew fun h => h.reset_nothingNew p
    case tickEvent => exact s.onHub_nothingNew Hub.tickEvent_nothingNew
    case deadlineDue => exact ⟨_, rfl, s.toHub.moveDue_nothingNew.keepsNames⟩
    case keepaliveLapse l => exact ⟨_, rfl, (s.toHub.lapse_nothingNew l).keepsNames⟩
    case lineBreak l => exact s.onHub_nothingNew fun h => h.lineBreak_nothingNew l
    case settlingComplete l => exact s.onHub_nothingNew fun h => h.modLink_nothingNew l _
    case receiveError l cause =>
      refine s.onHub_nothingNew fun h => ?_
      split
      · exact h.modLink_nothingNew l _
      · exact .refl h
    case abortMark l =>
      refine s.onHub_nothingNew fun h => ?_
      split
      · exact h.modLink_nothingNew l _
      · exact .refl h
    case unknownKind l | hello l | bye l | ping l | linkStatus l | objectRequest l =>
      exact s.onHub_keepsNames fun h => h.closeGood_keepsNames l _
    case sessionEndTeardown l =>
      refine s.onHub_nothingNew fun h => ?_
      split
      · exact h.tearDown_nothingNew l _
      · exact .refl h
    case frameComplete l => exact s.onHub_nothingNew fun h => h.frameCompletes_nothingNew l
    case goodCharacter l v => exact s.onHub_keepsNames fun h => h.goodCharacter_keepsNames l v
    all_goals exact absurd rfl takes

theorem step_keepsNames (s : State) : ∃ t, step s = .next t ∧ s.toHub.KeepsNames t.toHub := by
  unfold step
  split
  · exact s.onHub_nothingNew Hub.charTime_nothingNew
  · exact exec_keepsNames _ _

/-- Settles O54: a step adds no object and no request, but for an accepted CREATE, whose name is new and whose body spelled it,
an accepted SET_ACCESS, whose set holds the creator, and a good frame, whose body spells its request. -/
theorem stepKeepsGenerationsAndNames : Obligations.StepKeepsGenerationsAndNames := by
  have keeps {s t : State} (run : step s = .next t) : s.toHub.KeepsNames t.toHub := by
    obtain ⟨t', run', keeps⟩ := step_keepsNames s
    cases run.symm.trans run'
    exact keeps
  exact ⟨fun s t legal run => (keeps run).generations legal, fun s t spelled named run => (keeps run).names spelled named⟩

end Sys2Proof.Machine
end

section
/-! The requests on semaphores and on waiter records: what each does when no check refuses it, and one turn of the grant pass. -/

namespace Sys2Proof.Machine

/-! ### Requests met at once, requests that wait, and tokens given back (R26 to R35, R48, R78) -/

/-- The command of a taken request, whose performance is known. -/
theorem exec_request_eq {s : State} {l : Link} {rq : Request} {body : ObjReq} {h' : Hub} (ticks : Nat)
    (takes : s.toHub.catchUp.Takes l rq) (is : rq.body = body)
    (performs : body.perform ticks l rq (s.toHub.catchUp.takeFrom l) = h') :
    exec (body.command ticks) s = .next (s.withHub h') :=
  performs ▸ exec_request_of ticks takes is

/-- Settles O32: an ACQUIRE or a WAIT that is not blocked is met by its spec, with no tick event in it. -/
theorem grantedAtOnce : Obligations.GrantedAtOnce := by
  intro s l rq hd ticks h takes passes
  have run {body : ObjReq} {h' : Hub} (is : rq.body = body) (performs : body.perform ticks l rq (h.takeFrom l) = h') :
      exec (body.command ticks) s = .next (s.withHub h') := exec_request_eq ticks takes is performs
  clear_value h
  refine ⟨fun amount priority timeout is free => ?_, fun priority timeout is free => ?_⟩
  · obtain ⟨i, o, r, names, live, part, atOnce, -⟩ :=
      ((h.takeFrom l).acquire_spec ticks l rq hd amount priority timeout is).2 passes
    obtain ⟨noWaiter, enough, eq⟩ := atOnce free
    exact ⟨i, o, r, names, live, part, noWaiter, enough, run is eq⟩
  · obtain ⟨i, o, g, names, live, part, atOnce, -⟩ :=
      ((h.takeFrom l).wait_spec ticks l rq hd priority timeout is).2 passes
    obtain ⟨noWaiter, event, eq⟩ := atOnce free
    exact ⟨i, o, g, names, live, part, noWaiter, event, run is eq⟩

/-- Settles O33: a blocked ACQUIRE, WAIT or RECEIVE that passes its checks makes its waiter. -/
theorem blockedRequestsWait : Obligations.BlockedRequestsWait := by
  intro s l rq hd priority timeout ticks h takes passes
  have run {body : ObjReq} {h' : Hub} (is : rq.body = body) (performs : body.perform ticks l rq (h.takeFrom l) = h') :
      exec (body.command ticks) s = .next (s.withHub h') := exec_request_eq ticks takes is performs
  clear_value h
  refine ⟨fun amount is blocked => ?_, fun is blocked => ?_, fun is blocked => ?_⟩
  · obtain ⟨i, o, r, names, live, -, -, waits⟩ :=
      ((h.takeFrom l).acquire_spec ticks l rq hd amount priority timeout is).2 passes
    exact ⟨i, o, names, live, run is (waits blocked)⟩
  · obtain ⟨i, o, g, names, live, -, -, waits⟩ := ((h.takeFrom l).wait_spec ticks l rq hd priority timeout is).2 passes
    exact ⟨i, o, names, live, run is (waits blocked)⟩
  · obtain ⟨i, o, q, names, live, -, -, waits⟩ := ((h.takeFrom l).receive_spec ticks l rq hd priority timeout is).2 passes
    exact ⟨i, o, names, live, run is (waits blocked)⟩

/-- Settles O35: RELEASE, SIGNAL and RECLAIM that pass their checks, each by its spec. -/
theorem tokensGivenBackThenThePass : Obligations.TokensGivenBackThenThePass := by
  intro s l rq hd h takes passes
  have run {body : ObjReq} {h' : Hub} (is : rq.body = body) (performs : body.perform 0 l rq (h.takeFrom l) = h') :
      exec (body.command 0) s = .next (s.withHub h') := exec_request_eq 0 takes is performs
  clear_value h
  refine ⟨fun amount is => ?_, fun amount is => ?_, fun is => ?_⟩
  · obtain ⟨i, o, r, names, live, part, held, eq⟩ := ((h.takeFrom l).release_spec l rq hd amount is).2 passes
    exact ⟨i, o, r, names, live, part, held, run is eq⟩
  · obtain ⟨i, o, g, names, live, part, room, eq⟩ := ((h.takeFrom l).signal_spec l rq hd amount is).2 passes
    exact ⟨i, o, g, names, live, part, room, run is eq⟩
  · obtain ⟨i, o, r, names, live, part, -, eq⟩ := ((h.takeFrom l).reclaimTokens_spec l rq hd is).2 passes
    exact ⟨i, o, r, names, live, part, run is eq⟩

namespace Hub

/-! ### The grant pass (R27) and companion signalling (R36) -/

/-- The part of a queue satisfies no waiter of the grant pass. -/
theorem grantPass_of_queue {h : Hub} {i : Fin 48} {o : Obj} {q : Queue} (there : h.objAt i = some o)
    (part : o.part = .queue q) : h.grantPass i = h := by
  rcases list : h.waitListAt i with _ | ⟨st, rest⟩
  · exact grantPass_nil list
  · refine grantPass_stop list ?_
    rcases found : h.findWaiter st with _ | w
    · simp [grantHead, there, found]
    · rw [grantHead_eq there found, part]; rfl

/-- A part that satisfies its head waiter loses the head of its wait list. -/
theorem waitList_grantedPart {w : Waiter} {p p' : Part} (grants : grantedPart w p = some p') :
    p'.waitList = p.waitList.tail := by
  cases p <;> simp only [grantedPart, Option.ite_none_right_eq_some, Option.some.injEq, reduceCtorEq] at grants
  all_goals rw [← grants.2]; rfl

/-- A head waiter that can be satisfied is granted, and the pass goes on with the rest. -/
theorem grantPass_grants {h : Hub} {i : Fin 48} {o : Obj} {p : Part} {st : Stamp} {rest : List Stamp} {w : Waiter}
    (there : h.objAt i = some o) (list : o.part.waitList = st :: rest) (found : h.findWaiter st = some w)
    (grants : grantedPart w o.part = some p) : h.grantPass i = ((h.setPart i p).grant w).grantPass i := by
  have left : p.waitList = rest := by rw [waitList_grantedPart grants, list]; rfl
  exact grantPass_step ((waitListAt_of_objAt there).trans list) (by rw [grantHead_eq there found, grants]; rfl)
    ((waitListAt_granted there w).trans left)

/-- A head waiter that cannot be satisfied stops the pass. -/
theorem grantPass_blocked {h : Hub} {i : Fin 48} {o : Obj} {st : Stamp} {rest : List Stamp} {w : Waiter}
    (there : h.objAt i = some o) (list : o.part.waitList = st :: rest) (found : h.findWaiter st = some w)
    (blocked : grantedPart w o.part = none) : h.grantPass i = h :=
  grantPass_stop ((waitListAt_of_objAt there).trans list) (by rw [grantHead_eq there found, blocked]; rfl)

/-- A granted waiter: its record and its deadline entry, and its GRANT notice (R27 steps 3 and 4). -/
theorem grant_setPart_eq (h : Hub) (i : Fin 48) (p : Part) (w : Waiter) :
    (h.setPart i p).grant w =
      ({ (h.setPart i p) with
          waiters := h.waiters.map (fun x => if x.stamp = w.stamp then { x with state := .granted, message := none } else x),
          deadlines :=
            if w.deadline = none then h.deadlines else h.deadlines.filter (fun e => decide (e.stamp ≠ w.stamp)) } : Hub).notice
        w 0xC0 [byteOf w.object.gen, byteOf w.object.slot, byteOf w.amount] none := by
  rw [grant, endWait_spec]
  rfl

/-- Companion signalling below the limit and at it (R36). -/
theorem signalCompanion_eq {h : Hub} {c : Handle} {i : Fin 48} {o : Obj} {g : Signal} (names : h.slotOf c = some i)
    (there : h.objAt i = some o) (part : o.part = .signal g) :
    h.signalCompanion c =
      if g.count < g.limit then (h.setPart i (.signal { g with count := g.count + 1 })).grantPass i else h := by
  simp only [signalCompanion, names, there, Option.bind_some, part, Part.signal?]

end Hub

/-- Settles O36: each turn of the pass by whether the head can be satisfied, a signalling by whether the count is at its limit. -/
theorem grantPassAndCompanionSignalling : Obligations.GrantPassAndCompanionSignalling := by
  constructor
  · intro h i o there granted
    refine ⟨fun empty => Hub.grantPass_nil ((Hub.waitListAt_of_objAt there).trans empty),
      fun q part => Hub.grantPass_of_queue there part, fun st rest w list found => ⟨fun r part => ?_, fun g part => ?_⟩⟩
    · have tail : r.waitList.tail = rest := by rw [part] at list; exact congrArg List.tail list
      subst tail
      split
      · rw [Hub.grantPass_grants there list found (by rw [part, Hub.grantedPart, if_pos ‹_›]), Hub.grant_setPart_eq]
      · exact Hub.grantPass_blocked there list found (by rw [part, Hub.grantedPart, if_neg ‹_›])
    · have tail : g.waitList.tail = rest := by rw [part] at list; exact congrArg List.tail list
      subst tail
      split
      · rw [Hub.grantPass_grants there list found (by rw [part, Hub.grantedPart, if_pos ‹_›]), Hub.grant_setPart_eq]
      · exact Hub.grantPass_blocked there list found (by rw [part, Hub.grantedPart, if_neg ‹_›])
  · intro h c i o g names there part
    rw [Hub.signalCompanion_eq names there part]
    exact ⟨fun below => if_pos below, fun full => if_neg (Nat.not_lt.2 full)⟩

/-! ### CANCEL, FREE_WAITER and EXPIRY (R37, R56, R59, R61) -/

namespace Hub

theorem StampsDistinct.of_same {h h' : Hub} (distinct : h.StampsDistinct) (waiters : h'.waiters = h.waiters)
    (counter : h'.stampCounter = h.stampCounter) : h'.StampsDistinct := by
  rw [StampsDistinct, waiters, counter]; exact distinct

/-- CANCEL of a WAITING record on an object: the record, its place and its deadline entry go, the response comes, and the
grant pass follows the removal of a head. -/
theorem cancelWaiting_eq {h : Hub} {l : Link} {rq : Request} {w : Waiter} {i : Fin 48} (names : h.slotOf w.object = some i) :
    h.cancelWaiting l rq w =
      let answered : Hub :=
        ({ (h.setWaitListAt i ((h.waitListAt i).filter fun x => decide (x ≠ w.stamp))) with
            waiters := h.waiters.filter (fun x => decide (x.stamp ≠ w.stamp)),
            deadlines := if w.deadline = none then h.deadlines
              else h.deadlines.filter (fun e => decide (e.stamp ≠ w.stamp)) } : Hub).reply l rq .ok
          [byteOf w.object.gen, byteOf w.object.slot] none
      if (h.waitListAt i).head? = some w.stamp then answered.grantPass i else answered := by
  simp only [cancelWaiting, names, passIfHead, isHead, beq_iff_eq]
  rcases w.deadline <;> rfl

/-- A "free waiter" report under distinct stamps: the record with the stamp goes, unless it is WAITING. -/
theorem freeWaiter_eq {h : Hub} (distinct : h.StampsDistinct) (st : Stamp) :
    h.freeWaiter st =
      { h with waiters := h.waiters.filter fun w => decide (w.stamp ≠ st) || decide (w.state = .waiting) } := by
  have kept (all : ∀ w ∈ h.waiters, w.stamp ≠ st ∨ w.state = .waiting) :
      h = { h with waiters := h.waiters.filter fun w => decide (w.stamp ≠ st) || decide (w.state = .waiting) } := by
    rw [List.filter_eq_self.2 fun w mem => by simpa using all w mem]
  unfold freeWaiter
  rcases found : h.findWaiter st with _ | w
  · exact kept fun w mem => Or.inl (findWaiter_none found w mem)
  · have only : ∀ x ∈ h.waiters, x.stamp = st → x = w := fun x mem is =>
      Option.some.inj ((is ▸ findWaiter_of_mem distinct mem).symm.trans found)
    dsimp only
    split
    · exact kept fun x mem => (Decidable.em (x.stamp = st)).symm.imp_right fun is => only x mem is ▸ ‹_›
    · rw [freeRecord]
      congr 1
      refine List.filter_congr fun x mem => ?_
      by_cases is : x.stamp = st
      · have ended : x.state ≠ .waiting := only x mem is ▸ ‹_›
        simp [is, ended]
      · simp [is]

/-- The expiry item of a record that is not WAITING, or of none, is dropped. -/
theorem expire_dropped {h : Hub} {st : Stamp} (ended : ∀ w ∈ h.waiters, w.stamp = st → w.state ≠ .waiting) :
    h.expire st = h := by
  unfold expire
  rcases found : h.findWaiter st with _ | w
  · rfl
  · obtain ⟨mem, is⟩ := findWaiter_some found
    exact if_neg (ended w mem is)

/-- The expiry item of a WAITING record on an object. -/
theorem expire_eq {h : Hub} {w : Waiter} {i : Fin 48} (distinct : h.StampsDistinct) (mem : w ∈ h.waiters)
    (waiting : w.state = .waiting) (names : h.slotOf w.object = some i) :
    h.expire w.stamp =
      let expired : Hub :=
        ({ (h.setWaitListAt i ((h.waitListAt i).filter fun x => decide (x ≠ w.stamp))) with
            waiters := h.waiters.map (fun x => if x.stamp = w.stamp then { x with state := .expired } else x) } : Hub).notice
          w 0xC2 [byteOf w.object.gen, byteOf w.object.slot] none
      if (h.waitListAt i).head? = some w.stamp then expired.grantPass i else expired := by
  simp only [expire, findWaiter_of_mem distinct mem, waiting, if_true, names, passIfHead, isHead, beq_iff_eq]
  rfl

end Hub

/-- Settles O37: CANCEL by its checks; the record it finds names the object it waits on. -/
theorem cancelFreesAWaitingRecord : Obligations.CancelFreesAWaitingRecord := by
  intro s l rq tag h takes is passes
  have run {h' : Hub} (performs : (h.takeFrom l).cancel l rq tag = h') : exec .cancel s = .next (s.withHub h') :=
    exec_request_eq 0 takes is performs
  clear_value h
  obtain ⟨w, mem, link, named, waiting, eq⟩ := ((h.takeFrom l).cancel_spec l rq tag is).2 passes
  exact ⟨w, mem, link, named, waiting, fun i names => run (eq.trans (Hub.cancelWaiting_eq (h := h.takeFrom l) names))⟩

/-- Settles O38: with distinct stamps each report finds the one record it names. -/
theorem freeWaiterAndExpiry : Obligations.FreeWaiterAndExpiry := by
  constructor
  · intro s l st h turn distinct
    have run {h' : Hub} (performs : (h.takeFrom l).freeWaiter st = h') : exec .freeWaiter s = .next (s.withHub h') :=
      performs ▸ exec_freeWaiter turn
    clear_value h
    exact run (Hub.freeWaiter_eq (h := h.takeFrom l) distinct st)
  · intro s st h turn distinct taken
    have run {h' : Hub} (performs : taken.expire st = h') : exec .expiry s = .next (s.withHub h') := by
      subst performs; exact exec_expiry turn
    clear_value h
    have waiters : taken.waiters = h.waiters := rfl
    have counter : taken.stampCounter = h.stampCounter := rfl
    have list (i : Fin 48) : taken.waitListAt i = h.waitListAt i := rfl
    have slot (hd : Handle) : taken.slotOf hd = h.slotOf hd := rfl
    clear_value taken
    refine ⟨fun ended => run (Hub.expire_dropped (waiters ▸ ended)), fun w mem is waiting i names => run ?_⟩
    subst is
    rw [Hub.expire_eq (distinct.of_same waiters counter) (waiters ▸ mem) waiting ((slot _).trans names), list, waiters]

end Sys2Proof.Machine
end

section
/-! The purge at one slot, by the kind of object in it (R38 to R40, R87 to R90). -/

namespace Sys2Proof.Machine

@[simp] theorem Part.waitList_resource (r : Resource) : (Part.resource r).waitList = r.waitList := rfl
@[simp] theorem Part.waitList_signal (g : Signal) : (Part.signal g).waitList = g.waitList := rfl
@[simp] theorem Part.waitList_queue (q : Queue) : (Part.queue q).waitList = q.waitList := rfl

theorem Part.waitList_setWaitList (p : Part) (ws : List Stamp) : (p.setWaitList ws).waitList = ws := by cases p <;> rfl

namespace Hub

/-- The stamp is that of a record of the link. -/
def mine (h : Hub) (l : Link) (st : Stamp) : Bool := (h.findWaiter st).any fun w => decide (w.link = l)

/-- What the purge of a link keeps of a wait list: the other links' stamps, in their order. -/
def kept (h : Hub) (l : Link) (ws : List Stamp) : List Stamp := ws.filter fun st => !h.mine l st

/-- The hub without the deadline entries of the link's waiters on a wait list. -/
def without (h : Hub) (l : Link) (ws : List Stamp) : Hub :=
  { h with deadlines := h.deadlines.filter fun e => decide (e.stamp ∉ ws.filter (h.mine l)) }

@[simp] theorem without_slots (h : Hub) (l : Link) (ws : List Stamp) : (h.without l ws).slots = h.slots := rfl
@[simp] theorem without_waiters (h : Hub) (l : Link) (ws : List Stamp) : (h.without l ws).waiters = h.waiters := rfl
@[simp] theorem slot_without (h : Hub) (l : Link) (ws : List Stamp) (i : Fin 48) : (h.without l ws).slot i = h.slot i := rfl

theorem objAt_of_live {h : Hub} {i : Fin 48} {o : Obj} (live : (h.slot i).state = .live o) : h.objAt i = some o := by
  rw [objAt, live]; rfl

theorem objAt_of_draining {h : Hub} {i : Fin 48} {o : Obj} (draining : (h.slot i).state = .draining o) :
    h.objAt i = some o := by
  rw [objAt, draining]; rfl

/-- The removal of a link's waiters from the list of a slot in use. -/
theorem purgeWaiters_kept {h : Hub} {i : Fin 48} {o : Obj} (l : Link) (there : h.objAt i = some o) :
    h.purgeWaiters l i = (h.without l o.part.waitList).setWaitListAt i (h.kept l o.part.waitList) := by
  have eq := h.purgeWaiters_eq l i
  rw [waitListAt_of_objAt there] at eq
  exact eq

theorem waitListAt_setWaitListAt {h : Hub} {i : Fin 48} {o : Obj} (there : h.objAt i = some o) (ws : List Stamp) :
    (h.setWaitListAt i ws).waitListAt i = ws := by
  have set : (h.setWaitListAt i ws).objAt i = some { o with part := o.part.setWaitList ws } := by
    rw [setWaitListAt, modObj, objAt_setSlot, if_pos rfl]
    unfold objAt at there
    cases state : (h.slot i).state <;> rw [state] at there <;> cases there <;> rfl
  rw [waitListAt_of_objAt set, Part.waitList_setWaitList]

theorem waitListAt_purgeWaiters {h : Hub} {i : Fin 48} {o : Obj} (l : Link) (there : h.objAt i = some o) :
    (h.purgeWaiters l i).waitListAt i = h.kept l o.part.waitList := by
  rw [purgeWaiters_kept l there, waitListAt_setWaitListAt (h := h.without l _) there]

/-- The part of a LIVE slot set once the link's waiters have left it. -/
theorem purgeWaiters_setPart {h : Hub} {i : Fin 48} {o : Obj} (l : Link) (live : (h.slot i).state = .live o) (p : Part) :
    (h.purgeWaiters l i).setPart i p = (h.without l o.part.waitList).setLive i o p := by
  rw [purgeWaiters_kept l (objAt_of_live live)]
  exact setPart_purged live _ _ p

@[simp] theorem slot_setLive_self (h : Hub) (i : Fin 48) (o : Obj) (p : Part) :
    (h.setLive i o p).slot i = { h.slot i with state := .live { o with part := p } } := slot_setSlot_self h i _

@[simp] theorem objAt_setLive_self (h : Hub) (i : Fin 48) (o : Obj) (p : Part) :
    (h.setLive i o p).objAt i = some { o with part := p } := by rw [objAt, slot_setLive_self]; rfl

@[simp] theorem waitListAt_setLive_self (h : Hub) (i : Fin 48) (o : Obj) (p : Part) :
    (h.setLive i o p).waitListAt i = p.waitList := waitListAt_of_objAt (objAt_setLive_self h i o p)

/-- A LIVE RESOURCE: the link's tokens come back or are stranded, and the pass follows a change (R38 to R40). -/
theorem purgeSlot_resource {h : Hub} {i : Fin 48} {o : Obj} {r : Resource} (l : Link) (live : (h.slot i).state = .live o)
    (part : o.part = .resource r) :
    purgeSlot l h i =
      let after := (h.without l r.waitList).setLive i o
        (.resource { Resource.purgeHolding r l with waitList := h.kept l r.waitList })
      (if r.holdings.get l = 0 ∧ h.kept l r.waitList = r.waitList then after else after.grantPass i, none) := by
  have there := objAt_of_live live
  simp only [purgeSlot, live, part, purgeResource, waitListAt_purgeWaiters l there, waitListAt_of_objAt there,
    purgeWaiters_setPart l live, Part.waitList_resource]
  by_cases none : r.holdings.get l = 0 <;> by_cases same : h.kept l r.waitList = r.waitList <;> simp [none, same]

/-- A LIVE SIGNAL: the pass follows if a waiter was removed (R38, R40). -/
theorem purgeSlot_signal {h : Hub} {i : Fin 48} {o : Obj} {g : Signal} (l : Link) (live : (h.slot i).state = .live o)
    (part : o.part = .signal g) :
    purgeSlot l h i =
      let after := (h.without l g.waitList).setLive i o (.signal { g with waitList := h.kept l g.waitList })
      (if h.kept l g.waitList = g.waitList then after else after.grantPass i, none) := by
  have there := objAt_of_live live
  have list : o.part.waitList = g.waitList := by rw [part]; rfl
  have after : h.purgeWaiters l i =
      (h.without l g.waitList).setLive i o (.signal { g with waitList := h.kept l g.waitList }) := by
    rw [purgeWaiters_kept l there, list]
    simp [setWaitListAt, modObj, setLive, live, SlotState.modObj, part, Part.setWaitList]
  simp only [purgeSlot, live, part, purgeSignal, after, waitListAt_setLive_self, waitListAt_of_objAt there,
    Part.waitList_signal]
  by_cases same : h.kept l g.waitList = g.waitList <;> simp [same]

/-- A LIVE queue: claims come back READY, SPENT messages are reclaimed, and READY ones are handed out (R87 to R89). -/
theorem purgeSlot_liveQueue {h : Hub} {i : Fin 48} {o : Obj} {q : Queue} (l : Link) (live : (h.slot i).state = .live o)
    (part : o.part = .queue q) :
    purgeSlot l h i =
      let after := handOut i (h.kept l q.waitList) ((h.without l q.waitList).setLive i o
        (.queue { (q.withdrawClaims l .ready).reclaim with waitList := h.kept l q.waitList }))
      (after, q.crossed q.readyCount (after.readyCountAt i)) := by
  have there := objAt_of_live live
  have list : o.part.waitList = q.waitList := by rw [part]; rfl
  simp only [purgeSlot, live, part, purgeLiveQueue, waitListAt_purgeWaiters l there, purgeWaiters_setPart l live,
    waitListAt_setLive_self, Part.waitList_queue]
  rfl

/-- A DRAINING queue: claims are SPENT, and the slot is freed when no message is left (R87, R88). -/
theorem purgeSlot_drainingQueue {h : Hub} {i : Fin 48} {o : Obj} {q : Queue} (l : Link)
    (draining : (h.slot i).state = .draining o) (part : o.part = .queue q) :
    purgeSlot l h i =
      let left := (q.withdrawClaims l .spent).reclaim.messages
      ((h.without l q.waitList).setSlot i
        (if left = [] then (h.slot i).freed
         else { h.slot i with
           state := .draining { o with part := .queue { q with messages := left, waitList := h.kept l q.waitList } } }),
        none) := by
  have there := objAt_of_draining draining
  have list : o.part.waitList = q.waitList := by rw [part]; rfl
  have purged : (h.purgeWaiters l i).slot i =
      { h.slot i with state := .draining { o with part := o.part.setWaitList (h.kept l q.waitList) } } := by
    rw [purgeWaiters_kept l there, list]
    simp [setWaitListAt, modObj, draining, SlotState.modObj]
  have emptied := setReclaimed_eq (h := h.purgeWaiters l i) (i := i)
    (o := { o with part := o.part.setWaitList (h.kept l q.waitList) }) (by rw [objAt, purged]; rfl)
    { q.withdrawClaims l .spent with waitList := h.kept l q.waitList }
  simp only [purgeSlot, draining, part, purgeDrainingQueue, waitListAt_purgeWaiters l there, emptied, purged,
    Part.waitList_queue, true_and, SlotState.modObj]
  rw [purgeWaiters_kept l there, list, setWaitListAt, modObj, setSlot_setSlot]
  rfl

end Hub

theorem Resource.purgeHolding_eq (r : Resource) (l : Link) :
    r.purgeHolding l =
      { r with available := if r.robust then r.available + r.holdings.get l else r.available,
               stranded := if r.robust then r.stranded else r.stranded + r.holdings.get l,
               holdings := r.holdings.set l 0 } := by
  unfold purgeHolding; split <;> simp [*]

/-- Settles O48: the purge at a slot by the slot's state and the kind of object in it. -/
theorem purgeReturnsTokensAndMessages : Obligations.PurgeReturnsTokensAndMessages := by
  intro h l i mine kept without
  refine ⟨fun free => by simp only [Hub.purgeSlot, free], ?_, ?_, ?_⟩
  · intro o r live part n after
    rw [Hub.purgeSlot_resource l live part, Resource.purgeHolding_eq]
    rfl
  · intro o g live part after
    rw [Hub.purgeSlot_signal l live part]
    rfl
  · intro o q part left
    constructor
    · intro live after
      have purged := Hub.purgeSlot_liveQueue l live part
      rw [Queue.reclaim_eq] at purged
      obtain ⟨q', there⟩ : ∃ q', after.objAt i = some { o with part := .queue q' } :=
        Hub.objAt_handOut (kept q.waitList) (Hub.objAt_setLive_self _ i o _)
      refine ⟨q', there, ?_⟩
      have count : after.readyCountAt i = q'.messages.countP fun m => decide (m.state = .ready) := by
        simp only [Hub.readyCountAt, there, Option.bind_some, Part.queue?, Queue.readyCount_eq]
      rw [← count]
      exact purged
    · intro draining
      rw [Hub.purgeSlot_drainingQueue l draining part, Queue.reclaim_eq]
      rfl

end Sys2Proof.Machine
end

section
/-! What a change of one object's part keeps: the tokens of a semaphore (R21 to R23), the message list of a queue (R68 to R75), and
the waiters that the part serves (R51). -/

namespace Sys2Proof.Machine

/-! ### The tokens of a semaphore -/

/-- The tokens of a RESOURCE are accounted for, and a SIGNAL's count is at most its limit. -/
def Part.Conserved (p : Part) : Prop := (∀ r, p = .resource r → r.Balanced) ∧ ∀ g, p = .signal g → g.Bounded

theorem Part.conserved_resource {r : Resource} : (Part.resource r).Conserved ↔ r.Balanced :=
  ⟨fun c => c.1 r rfl, fun b => ⟨fun _ is => Part.resource.inj is ▸ b, fun _ is => nomatch is⟩⟩

theorem Part.conserved_signal {g : Signal} : (Part.signal g).Conserved ↔ g.Bounded :=
  ⟨fun c => c.2 g rfl, fun b => ⟨fun _ is => (nomatch is), fun _ is => Part.signal.inj is ▸ b⟩⟩

theorem Part.conserved_queue (q : Queue) : (Part.queue q).Conserved := ⟨fun _ is => (nomatch is), fun _ is => nomatch is⟩

/-- The sum over the links after one link's value is replaced. -/
theorem PerLink.sum_set (p : PerLink Nat) (l : Link) (n : Nat) :
    ((p.set l n).a + (p.set l n).b + (p.set l n).c + (p.set l n).d) + p.get l = (p.a + p.b + p.c + p.d) + n := by
  cases l <;> simp only [PerLink.set, PerLink.get] <;> omega

/-- Tokens that pass between available, a holding and stranded stay accounted for. -/
theorem Resource.Balanced.move {r r' : Resource} {l : Link} {n : Nat} (balanced : r.Balanced) (limit : r'.limit = r.limit)
    (robust : r'.robust = r.robust) (holdings : r'.holdings = r.holdings.set l n)
    (sum : r'.available + n + r'.stranded = r.available + r.holdings.get l + r.stranded)
    (stranded : r.robust = true → r'.stranded = r.stranded) : r'.Balanced := by
  have moved := r.holdings.sum_set l n
  obtain ⟨total, none⟩ := balanced
  refine ⟨?_, fun is => ?_⟩
  · rw [holdings, limit]; omega
  · rw [robust] at is
    rw [stranded is]; exact none is

/-! ### The message list of a queue -/

/-- What a message's claim, return and spending leave of it: its sequence, its length and its place. -/
def Message.layout (m : Message) : Half × Nat × Nat := (m.seq, m.length, m.offset)

namespace Queue

/-- A change of a queue that keeps its area and keeps its messages fitting and chained. -/
structure Keeps (q q' : Queue) : Prop where
  base : q'.base = q.base
  blocks : q'.blocks = q.blocks
  sound : q.Fits → q.chained q.messages = true → q'.Fits ∧ q'.chained q'.messages = true

theorem chained_tail {q : Queue} {m : Message} {ms : List Message} (chain : q.chained (m :: ms) = true) :
    q.chained ms = true := by
  cases ms with
  | nil => rfl
  | cons m' ms => simp only [chained, Bool.and_eq_true] at chain; exact chain.2

theorem chained_append_right {q : Queue} (older : List Message) {ms : List Message} (chain : q.chained (older ++ ms) = true) :
    q.chained ms = true := by
  induction older with
  | nil => exact chain
  | cons m older ih => exact ih (chained_tail chain)

/-- The chain looks at the layouts alone. -/
theorem chained_congr {q q' : Queue} (next : q'.nextSeq = q.nextSeq) (area : q'.areaBytes = q.areaBytes) :
    ∀ {ms ms' : List Message}, ms.map Message.layout = ms'.map Message.layout → q'.chained ms' = q.chained ms
  | [], [], _ => rfl
  | [m], [m'], same => by
    simp only [List.map_cons, List.map_nil, List.cons.injEq, Message.layout, Prod.mk.injEq] at same
    simp only [chained, next, same.1.1]
  | m :: n :: ms, m' :: n' :: ms', same => by
    have tail : (n :: ms).map Message.layout = (n' :: ms').map Message.layout := (List.cons.inj same).2
    have rest := chained_congr next area tail
    simp only [List.map_cons, List.cons.injEq, Message.layout, Prod.mk.injEq] at same
    obtain ⟨⟨seq, length, offset⟩, ⟨seq', -, offset'⟩, -⟩ := same
    simp only [chained, area, rest, seq, length, offset, seq', offset']
  | [], _ :: _, same | _ :: _, [], same | [_], _ :: _ :: _, same | _ :: _ :: _, [_], same => by simp at same

/-- Messages that leave at the oldest end, and changes of state that leave the layouts, keep a queue sound as long as the oldest
message left is not SPENT. -/
theorem keeps_of_layouts {q q' : Queue} (frame : q' = { q with messages := q'.messages, waitList := q'.waitList })
    (left : q'.messages.map Message.layout <:+ q.messages.map Message.layout)
    (head : q.Fits → q'.messages.head?.map Message.isSpent ≠ some true) : q.Keeps q' := by
  obtain ⟨older, split⟩ := left
  obtain ⟨older', kept, messages, -, same⟩ := List.map_eq_append_iff.1 split.symm
  have lengths (ms : List Message) : (ms.map fun m => footprint m.length) = (ms.map Message.layout).map fun y => footprint y.2.1 := by
    rw [List.map_map]; rfl
  refine ⟨by rw [frame], by rw [frame], fun ⟨lo, hi, area, used, entries, unspent, longest⟩ chain => ⟨?_, ?_⟩⟩
  · have shorter : q'.used ≤ q.used := by
      simp only [Queue.used, lengths, ← split, List.map_append, List.sum_append]; omega
    have fewer : q'.messages.length ≤ q.messages.length := by
      have counts := congrArg List.length split
      simp only [List.length_append, List.length_map] at counts; omega
    have bytes : q'.areaBytes = q.areaBytes := by rw [frame]; rfl
    refine ⟨by rw [frame]; exact lo, by rw [frame]; exact hi, by rw [frame]; exact area, by omega, ?_,
      head ⟨lo, hi, area, used, entries, unspent, longest⟩, fun m mem => ?_⟩
    · have most : q'.maxEntries = q.maxEntries := by rw [frame]
      omega
    · have most : q'.maxLength = q.maxLength := by rw [frame]
      obtain ⟨m', mem', layout⟩ := List.mem_map.1 (same ▸ List.mem_map_of_mem mem)
      have length : m'.length = m.length := congrArg (fun y => y.2.1) layout
      rw [most, ← length]
      exact longest m' (messages ▸ List.mem_append_right older' mem')
  · rw [chained_congr (q := q) (by rw [frame]) (by rw [frame]; rfl) same]
    exact chained_append_right older' (messages ▸ chain)

theorem keeps_setWaiters (q : Queue) (ws : List Stamp) : q.Keeps { q with waitList := ws } :=
  keeps_of_layouts rfl (List.suffix_refl _) fun ⟨_, _, _, _, _, unspent, _⟩ => unspent

/-- A relabelling that leaves the layouts, followed by reclamation (R75). -/
theorem keeps_reclaimed (q : Queue) {f : Message → Message} (layout : ∀ m, (f m).layout = m.layout) (ws : List Stamp) :
    q.Keeps { q with messages := (q.messages.map f).dropWhile Message.isSpent, waitList := ws } := by
  refine keeps_of_layouts rfl ?_ fun _ => ?_
  · have same : q.messages.map Message.layout = (q.messages.map f).map Message.layout := by
      rw [List.map_map]; exact List.map_congr_left fun m _ => (layout m).symm
    rw [same]
    exact (List.dropWhile_suffix _).map _
  · have first := List.head?_dropWhile_not Message.isSpent (q.messages.map f)
    rcases head : ((q.messages.map f).dropWhile Message.isSpent).head? with _ | m
    · simp
    · simp only [head] at first; simp [first]

/-- A message is claimed in its place (R78, R79). -/
theorem keeps_claim {q : Queue} {older newer : List Message} {m : Message} (c : Claimant) (ws : List Stamp)
    (messages : q.messages = older ++ m :: newer) :
    q.Keeps { q with messages := older ++ m.claim c :: newer, waitList := ws } := by
  refine keeps_of_layouts rfl ?_ fun ⟨_, _, _, _, _, unspent, _⟩ => ?_
  · rw [messages]; simp [Message.layout, Message.claim]
  · rw [messages] at unspent
    cases older with
    | nil => simp [Message.claim, Message.isSpent]
    | cons x xs => simpa using unspent

/-- The claim of the oldest READY message (R78, R89). -/
theorem keeps_claimed {q : Queue} {c : Claimant} {m : Message} {ms : List Message} (ws : List Stamp)
    (claims : claimOldest c q.messages = some (m, ms)) : q.Keeps { q with messages := ms, waitList := ws } := by
  rcases claimOldest_spec c q.messages with ⟨-, no⟩ | ⟨older, m', newer, messages, -, ready, -, eq⟩
  · rw [no] at claims; cases claims
  · obtain ⟨-, rfl⟩ := Prod.mk.inj (Option.some.inj (eq.symm.trans claims))
    exact keeps_claim c ws messages

/-- A message joins the newest end of the chain (R72, R77). -/
theorem chained_join {q q' : Queue} {m : Message} (seq : m.seq = q.nextSeq) (next : q'.nextSeq = q.nextSeq + 1)
    (area : q'.areaBytes = q.areaBytes) : ∀ {ms : List Message}, q.chained ms = true →
      (∀ x, ms.getLast? = some x → m.offset = (x.offset + footprint x.length) % q.areaBytes) →
        q'.chained (ms ++ [m]) = true
  | [], _, _ => by simp [chained, seq, next]
  | [x], chain, place => by
    simp only [chained, decide_eq_true_eq] at chain
    simp [chained, seq, next, area, ← chain, place x rfl]
  | x :: y :: ms, chain, place => by
    have rest := chained_join seq next area (chained_tail chain) (ms := y :: ms) fun z is => place z (by simpa using is)
    simp only [chained, Bool.and_eq_true] at chain
    simp only [List.cons_append, chained, area, Bool.and_eq_true]
    exact ⟨chain.1, rest⟩

/-- A message that fits is accepted, READY or claimed at once (R76, R77). -/
theorem keeps_accept {q : Queue} {payload : List Byte} {state : MessageState} {deliveries : Nat} (ws : List Stamp)
    (unspent : state ≠ .spent) (short : payload.length ≤ q.maxLength) (entry : q.messages.length < q.maxEntries)
    (room : footprint payload.length ≤ q.freeBytes) :
    q.Keeps { q.accept { q.newMessage payload with state := state, deliveries := deliveries } with waitList := ws } := by
  refine ⟨rfl, rfl, fun ⟨lo, hi, area, used, _, oldest, longest⟩ chain => ⟨⟨lo, hi, area, ?_, ?_, ?_, ?_⟩, ?_⟩⟩
  · have sum : (q.accept { q.newMessage payload with state := state, deliveries := deliveries }).used =
        q.used + footprint payload.length := by simp [Queue.used, accept, newMessage]
    have free : q.freeBytes = q.areaBytes - q.used := rfl
    show (q.accept { q.newMessage payload with state := state, deliveries := deliveries }).used ≤ q.areaBytes
    omega
  · simp only [accept, List.length_append, List.length_singleton]; omega
  · cases messages : q.messages with
    | nil => simpa [accept, messages, Message.isSpent] using unspent
    | cons x xs => simpa [accept, messages] using oldest
  · intro m mem
    rcases List.mem_append.1 mem with mem | mem
    · exact longest m mem
    · rw [List.mem_singleton.1 mem]; exact short
  · refine chained_join (q := q)
      (q' := { q.accept { q.newMessage payload with state := state, deliveries := deliveries } with waitList := ws })
      rfl rfl rfl chain fun x last => ?_
    simp only [newMessage, writeOffset, last]

end Queue

/-! ### What a change of a part keeps -/

/-- The record waits by the operation of the part's kind, and asks a RESOURCE for 1 up to its limit. -/
def Part.Serves (p : Part) (w : Waiter) : Prop :=
  match p with
  | .resource r => w.op = .acquire ∧ 1 ≤ w.amount ∧ w.amount ≤ r.limit
  | .signal _ => w.op = .wait ∧ w.amount = 1
  | .queue _ => w.op = .receive ∧ w.amount = 1

/-- A queue of a DRAINING slot: no waiter, no READY message, and a claimed one (R86). -/
def Part.Drained (p : Part) : Prop := ∃ q, p = .queue q ∧ q.waitList = [] ∧ q.readyCount = 0 ∧ 1 ≤ q.claimedCount

/-- A change of a part that keeps the tokens, the message list and the waiters served. -/
structure Part.Keeps (p p' : Part) : Prop where
  tokens : p.Conserved → p'.Conserved
  queue : ∀ q', p' = .queue q' → ∃ q, p = .queue q ∧ q.Keeps q'
  serves : ∀ w, p.Serves w → p'.Serves w

namespace Part

theorem keeps_queue {q q' : Queue} (keeps : q.Keeps q') : (queue q).Keeps (.queue q') :=
  ⟨fun _ => conserved_queue q', fun _ is => ⟨q, rfl, queue.inj is ▸ keeps⟩, fun _ serves => serves⟩

theorem keeps_resource {r r' : Resource} (limit : r'.limit = r.limit) (balanced : r.Balanced → r'.Balanced) :
    (resource r).Keeps (.resource r') :=
  ⟨fun conserved => conserved_resource.2 (balanced (conserved_resource.1 conserved)), fun _ is => (nomatch is),
    fun _ serves => by simpa only [Serves, limit] using serves⟩

theorem keeps_signal {g g' : Signal} (bounded : g.Bounded → g'.Bounded) : (signal g).Keeps (.signal g') :=
  ⟨fun conserved => conserved_signal.2 (bounded (conserved_signal.1 conserved)), fun _ is => (nomatch is),
    fun _ serves => serves⟩

theorem Keeps.refl (p : Part) : p.Keeps p :=
  ⟨id, fun q is => ⟨q, is, rfl, rfl, fun fits chain => ⟨fits, chain⟩⟩, fun _ => id⟩

theorem keeps_setWaitList (p : Part) (ws : List Stamp) : p.Keeps (p.setWaitList ws) := by
  cases p with
  | resource r => exact keeps_resource rfl id
  | signal g => exact keeps_signal id
  | queue q => exact keeps_queue (q.keeps_setWaiters ws)

/-- Tokens taken by a link or by its waiter (R26, R27, R29). -/
theorem keeps_take {r : Resource} {n : Nat} (l : Link) (ws : List Stamp) (enough : n ≤ r.available) :
    (resource r).Keeps (.resource { r with available := r.available - n, waitList := ws,
                                           holdings := r.holdings.set l (r.holdings.get l + n) }) :=
  keeps_resource rfl fun balanced => balanced.move rfl rfl rfl (by dsimp only; omega) fun _ => rfl

/-- Tokens given back by a link (R31). -/
theorem keeps_giveBack {r : Resource} {n : Nat} (l : Link) (held : n ≤ r.holdings.get l) :
    (resource r).Keeps (.resource { r with available := r.available + n,
                                           holdings := r.holdings.set l (r.holdings.get l - n) }) :=
  keeps_resource rfl fun balanced => balanced.move rfl rfl rfl (by dsimp only; omega) fun _ => rfl

/-- Stranded tokens that become available (R35). -/
theorem keeps_reclaim (r : Resource) :
    (resource r).Keeps (.resource { r with available := r.available + r.stranded, stranded := 0 }) :=
  keeps_resource rfl fun balanced => balanced.move (l := .a) rfl rfl (r.holdings.set_get .a).symm (by dsimp only; omega)
    fun robust => (balanced.2 robust).symm

/-- A purged link's tokens, available again or stranded (R39). -/
theorem keeps_purgeHolding (r : Resource) (l : Link) (ws : List Stamp) :
    (resource r).Keeps (.resource { r.purgeHolding l with waitList := ws }) := by
  rw [r.purgeHolding_eq]
  cases robust : r.robust
  · exact keeps_resource rfl fun balanced => balanced.move (l := l) (n := 0) rfl robust.symm rfl
      (by simp; omega) fun is => nomatch robust.symm.trans is
  · exact keeps_resource rfl fun balanced => balanced.move (l := l) (n := 0) rfl robust.symm rfl (by simp) fun _ => by simp

/-- Events added to a count below its limit (R32, R36). -/
theorem keeps_count {g : Signal} {n : Nat} (room : g.count + n ≤ g.limit) :
    (signal g).Keeps (.signal { g with count := g.count + n }) := keeps_signal fun _ => room

/-- An event taken from a count (R27, R33). -/
theorem keeps_event (g : Signal) (ws : List Stamp) : (signal g).Keeps (.signal { g with count := g.count - 1, waitList := ws }) :=
  keeps_signal fun bounded => Nat.le_trans (Nat.sub_le _ _) bounded

/-- What the head waiter of a semaphore takes (R27 steps 1 and 2). -/
theorem keeps_granted {w : Waiter} {p p' : Part} (grants : Hub.grantedPart w p = some p') : p.Keeps p' := by
  cases p with
  | resource r =>
    simp only [Hub.grantedPart, Option.ite_none_right_eq_some, Option.some.injEq] at grants
    obtain ⟨enough, rfl⟩ := grants
    exact keeps_take w.link _ enough
  | signal g =>
    simp only [Hub.grantedPart, Option.ite_none_right_eq_some, Option.some.injEq] at grants
    obtain ⟨-, rfl⟩ := grants
    exact keeps_event g _
  | queue q => cases grants

end Part
end Sys2Proof.Machine
end

section
/-! What an operation of the engine keeps of the object table and of the records (`Hub.Keeps`): the tokens, the message lists, the
areas, and the stamps and tags of the records. CREATE and the waiter stage are the operations that add something. -/

namespace Sys2Proof.Machine

/-! ### One slot -/

/-- A slot `s'` that may follow `s` where no object is made. -/
structure Slot.Keeps (s s' : Slot) : Prop where
  tokens : (∀ o, s.state.obj = some o → o.part.Conserved) → ∀ o', s'.state.obj = some o' → o'.part.Conserved
  queue : ∀ o' q', s'.state.obj = some o' → o'.part = .queue q' → ∃ o q, s.state.obj = some o ∧ o.part = .queue q ∧ q.Keeps q'
  drained : (∀ o, s.state = .draining o → o.part.Drained) → ∀ o', s'.state = .draining o' → o'.part.Drained

namespace Slot

theorem Keeps.refl (s : Slot) : s.Keeps s :=
  ⟨id, fun o q is part => ⟨o, q, is, part, rfl, rfl, fun fits chain => ⟨fits, chain⟩⟩, id⟩

theorem Keeps.trans {s s' s'' : Slot} (first : s.Keeps s') (second : s'.Keeps s'') : s.Keeps s'' where
  tokens := fun conserved => second.tokens (first.tokens conserved)
  queue := fun o'' q'' is'' part'' => by
    obtain ⟨o', q', is', part', keeps'⟩ := second.queue o'' q'' is'' part''
    obtain ⟨o, q, is, part, keeps⟩ := first.queue o' q' is' part'
    refine ⟨o, q, is, part, keeps'.base.trans keeps.base, keeps'.blocks.trans keeps.blocks, fun fits chain => ?_⟩
    obtain ⟨fits', chain'⟩ := keeps.sound fits chain
    exact keeps'.sound fits' chain'
  drained := fun drained => second.drained (first.drained drained)

/-- A slot that holds no object keeps what any slot held. -/
theorem keeps_free {s s' : Slot} (free : s'.state = .free) : s.Keeps s' :=
  ⟨fun _ _ is => by rw [free] at is; (cases is), fun _ _ is => by rw [free] at is; (cases is),
    fun _ _ is => by rw [free] at is; cases is⟩

theorem keeps_atHubReset (s : Slot) : s.Keeps s.atHubReset := by
  unfold atHubReset
  split
  · exact .refl s
  · exact keeps_free rfl

/-- The object of a slot gets another part; a slot that is DRAINING then has a drained queue. -/
theorem keeps_part {s s' : Slot} {o o' : Obj} (there : s.state.obj = some o) (there' : s'.state.obj = some o')
    (keeps : o.part.Keeps o'.part)
    (drained : (s.state = .draining o → o.part.Drained) → s'.state = .draining o' → o'.part.Drained) : s.Keeps s' where
  tokens := fun conserved x is => by cases there'.symm.trans is; exact keeps.tokens (conserved o there)
  queue := fun x q' is part => by
    cases there'.symm.trans is
    obtain ⟨q, part', keeps'⟩ := keeps.queue q' part
    exact ⟨o, q, there, part', keeps'⟩
  drained := fun all x is => by
    have same : x = o' := by rw [is] at there'; exact Option.some.inj there'
    exact same ▸ drained (all o) (same ▸ is)

end Slot

/-! ### The hub -/

/-- What StampsDistinct and TagsDistinct look at in a record. -/
def Waiter.key (w : Waiter) : Stamp × Link × Byte := (w.stamp, w.link, w.tag)

namespace Hub

/-- From `h` to `h'` no object is made, no area moves, and tokens, message lists, stamps and tags stay sound. -/
structure Keeps (h h' : Hub) : Prop where
  slots : ∀ i, (h.slot i).Keeps (h'.slot i)
  stamps : h.StampsDistinct → h'.StampsDistinct
  tags : h.TagsDistinct → h'.TagsDistinct

theorem Keeps.trans {h h' h'' : Hub} (first : h.Keeps h') (second : h'.Keeps h'') : h.Keeps h'' :=
  ⟨fun i => (first.slots i).trans (second.slots i), fun distinct => second.stamps (first.stamps distinct),
    fun distinct => second.tags (first.tags distinct)⟩

/-- Fewer records, or the same ones in other states. -/
theorem keeps_of_keys {h h' : Hub} (slots : ∀ i, (h.slot i).Keeps (h'.slot i)) (counter : h'.stampCounter = h.stampCounter)
    (keys : (h'.waiters.map Waiter.key).Sublist (h.waiters.map Waiter.key)) : h.Keeps h' where
  slots := slots
  stamps := fun ⟨nodup, range⟩ => by
    refine ⟨?_, fun w mem => ?_⟩
    · have stamps := keys.map Prod.fst
      rw [List.map_map, List.map_map] at stamps
      exact nodup.sublist stamps
    · obtain ⟨w', mem', same⟩ := List.mem_map.1 (keys.subset (List.mem_map_of_mem mem))
      have stamp : w'.stamp = w.stamp := congrArg Prod.fst same
      rw [counter, ← stamp]
      exact range w' mem'
  tags := fun distinct l => by
    obtain ⟨nodup, few⟩ := distinct l
    have own (ws : List Waiter) : ((ws.map Waiter.key).filter fun k => decide (k.2.1 = l)) =
        (ws.filter fun w => decide (w.link = l)).map Waiter.key := by rw [List.filter_map]; rfl
    have fewer := keys.filter fun k => decide (k.2.1 = l)
    rw [own, own] at fewer
    refine ⟨?_, ?_⟩
    · have tags := fewer.map fun k => k.2.2
      rw [List.map_map, List.map_map] at tags
      exact nodup.sublist tags
    · have counts := fewer.length_le
      simp only [List.length_map] at counts
      simp only [owned, List.countP_eq_length_filter] at few ⊢
      omega

theorem keeps_of_same {h h' : Hub} (slots : h'.slots = h.slots) (waiters : h'.waiters = h.waiters)
    (counter : h'.stampCounter = h.stampCounter) : h.Keeps h' :=
  keeps_of_keys (fun i => by simp only [slot, slots]; exact .refl _) counter (by rw [waiters])

theorem Keeps.refl (h : Hub) : h.Keeps h := keeps_of_same rfl rfl rfl

theorem Keeps.foldl {α : Type} {f : Hub → α → Hub} (each : ∀ (h : Hub) (a : α), h.Keeps (f h a)) (as : List α) (h : Hub) :
    h.Keeps (as.foldl f h) := by
  induction as generalizing h with
  | nil => exact .refl h
  | cons a as ih => exact (each h a).trans (ih (f h a))

/-! ### Slots -/

theorem setSlot_keeps {h : Hub} {i : Fin 48} {sl : Slot} (keeps : (h.slot i).Keeps sl) : h.Keeps (h.setSlot i sl) := by
  refine keeps_of_keys (fun j => ?_) rfl (List.Sublist.refl _)
  rw [slot_setSlot]
  split
  · subst j; exact keeps
  · exact .refl _

theorem setLive_keeps {h : Hub} {i : Fin 48} {o : Obj} {p : Part} (live : (h.slot i).state = .live o)
    (keeps : o.part.Keeps p) : h.Keeps (h.setLive i o p) :=
  setSlot_keeps (Slot.keeps_part (by rw [live]; rfl) rfl keeps fun _ is => nomatch is)

theorem modObj_keeps {h : Hub} {i : Fin 48} {o : Obj} {f : Obj → Obj} (there : h.objAt i = some o)
    (keeps : o.part.Keeps (f o).part) (drained : o.part.Drained → (f o).part.Drained) : h.Keeps (h.modObj i f) := by
  unfold objAt at there
  refine setSlot_keeps (Slot.keeps_part (o' := f o) there ?_ keeps fun was is => drained (was ?_))
  all_goals cases state : (h.slot i).state <;> simp_all [SlotState.obj, SlotState.modObj]

theorem setPart_keeps {h : Hub} {i : Fin 48} {o : Obj} {p : Part} (there : h.objAt i = some o) (keeps : o.part.Keeps p)
    (drained : o.part.Drained → p.Drained) : h.Keeps (h.setPart i p) := modObj_keeps there keeps drained

theorem freeSlotAt_keeps (h : Hub) (i : Fin 48) : h.Keeps (h.freeSlotAt i) := setSlot_keeps (Slot.keeps_free rfl)

/-- A FREE slot has no object to change. -/
theorem modObj_of_free {h : Hub} {i : Fin 48} {f : Obj → Obj} (none : h.objAt i = .none) : h.modObj i f = h := by
  unfold objAt at none
  have free : (h.slot i).state = .free := by
    cases state : (h.slot i).state with
    | free => rfl
    | live o | draining o => rw [state] at none; cases none
  have same : ({ gen := (h.slot i).gen, state := (h.slot i).state.modObj f } : Slot) = h.slot i := by
    rw [free, SlotState.modObj, ← free]
  rw [modObj, same, setSlot_slot]

/-- A record leaves a wait list (R51). -/
theorem leaveWaitList_keeps (h : Hub) (i : Fin 48) (st : Stamp) : h.Keeps (h.leaveWaitList i st) := by
  unfold leaveWaitList setWaitListAt
  rcases there : h.objAt i with _ | o
  · rw [modObj_of_free there]; exact .refl h
  · refine modObj_keeps there (o.part.keeps_setWaitList _) fun ⟨q, part, empty, drained⟩ => ?_
    refine ⟨{ q with waitList := [] }, ?_, rfl, drained⟩
    simp only [part, Part.setWaitList, waitListAt_of_objAt there, Part.waitList_queue, empty, List.filter_nil]

/-! ### Records -/

theorem modWaiter_keeps {h : Hub} {st : Stamp} {f : Waiter → Waiter} (key : ∀ w, (f w).key = w.key) :
    h.Keeps (h.modWaiter st f) := by
  refine keeps_of_keys (fun _ => .refl _) rfl ?_
  have same : (h.modWaiter st f).waiters.map Waiter.key = h.waiters.map Waiter.key := by
    simp only [modWaiter, List.map_map]
    exact List.map_congr_left fun w _ => by simp only [Function.comp]; split <;> simp [key]
  rw [same]

theorem filterRecords_keeps (h : Hub) (p : Waiter → Bool) : h.Keeps { h with waiters := h.waiters.filter p } :=
  keeps_of_keys (fun _ => .refl _) rfl (List.filter_sublist.map _)

theorem endWait_keeps (h : Hub) (w : Waiter) (st : WaiterState) (msg : Option Half) : h.Keeps (h.endWait w st msg) := by
  have ended : h.Keeps (h.modWaiter w.stamp fun x => { x with state := st, message := msg }) := modWaiter_keeps fun _ => rfl
  unfold endWait
  dsimp only
  split
  · exact ended.trans (keeps_of_same rfl rfl rfl)
  · exact ended

theorem notice_keeps (h : Hub) (w : Waiter) (kind : Byte) (body : List Byte) (msg : Option MessageRef) :
    h.Keeps (h.notice w kind body msg) := keeps_of_same rfl rfl rfl

theorem reply_keeps (h : Hub) (l : Link) (rq : Request) (code : ResultCode) (body : List Byte) (msg : Option MessageRef) :
    h.Keeps (h.reply l rq code body msg) := keeps_of_same rfl rfl rfl

theorem takeFrom_keeps (h : Hub) (l : Link) : h.Keeps (h.takeFrom l) := keeps_of_same rfl rfl rfl

theorem abandon_keeps (h : Hub) (st : Stamp) : h.Keeps (h.abandon st) := by
  unfold abandon
  split
  · exact (h.endWait_keeps _ _ _).trans (notice_keeps _ _ _ _ _)
  · exact .refl h

/-! ### The grant pass and the hand-out -/

theorem grant_keeps (h : Hub) (w : Waiter) : h.Keeps (h.grant w) := (h.endWait_keeps _ _ _).trans (notice_keeps _ _ _ _ _)

/-- A part that satisfies a waiter is that of a semaphore, which no DRAINING slot holds. -/
theorem not_drained_of_granted {w : Waiter} {p p' : Part} (grants : grantedPart w p = some p') : ¬ p.Drained := by
  rintro ⟨q, rfl, -⟩
  cases grants

theorem grantHead_keeps {h h' : Hub} {i : Fin 48} {st : Stamp} (granted : h.grantHead i st = some h') : h.Keeps h' := by
  unfold grantHead at granted
  split at granted
  · obtain ⟨p, grants, rfl⟩ := Option.map_eq_some_iff.1 granted
    exact (setPart_keeps ‹_› (Part.keeps_granted grants) fun drained => absurd drained (not_drained_of_granted grants)).trans
      (grant_keeps _ _)
  · cases granted

theorem grantList_keeps (i : Fin 48) (sts : List Stamp) (h : Hub) : h.Keeps (grantList i sts h) := by
  induction sts generalizing h with
  | nil => exact .refl h
  | cons st sts ih =>
    rw [grantList]
    split
    · rename_i granted; exact (grantHead_keeps granted).trans (ih _)
    · exact .refl h

theorem grantPass_keeps (h : Hub) (i : Fin 48) : h.Keeps (h.grantPass i) := grantList_keeps i _ h

theorem passIfHead_keeps (h : Hub) (i : Fin 48) (wasHead : Bool) : h.Keeps (h.passIfHead i wasHead) := by
  unfold passIfHead
  split
  · exact h.grantPass_keeps i
  · exact .refl h

/-- The object whose part a check recognises. -/
theorem part_of_bind {α : Type} {h : Hub} {i : Fin 48} {kind? : Part → Option α} {p : α}
    (is : ((h.objAt i).bind fun o => kind? o.part) = some p) : ∃ o, h.objAt i = some o ∧ kind? o.part = some p :=
  Option.bind_eq_some_iff.1 is

/-- Companion signalling does nothing, or it counts one event below the limit of a SIGNAL and runs the pass (R36). -/
theorem signalCompanion_cases (h : Hub) (hd : Handle) :
    h.signalCompanion hd = h ∨ ∃ i o g, h.slotOf hd = some i ∧ h.objAt i = some o ∧ o.part = .signal g ∧ g.count < g.limit ∧
      h.signalCompanion hd = (h.setPart i (.signal { g with count := g.count + 1 })).grantPass i := by
  unfold signalCompanion
  split
  · exact Or.inl rfl
  · rename_i i names
    split
    · rename_i g is
      obtain ⟨o, there, part⟩ := part_of_bind is
      split
      · exact Or.inr ⟨i, o, g, names, there, part_signal part, ‹_›, rfl⟩
      · exact Or.inl rfl
    · exact Or.inl rfl

theorem signalCompanion_keeps (h : Hub) (hd : Handle) : h.Keeps (h.signalCompanion hd) := by
  rcases h.signalCompanion_cases hd with same | ⟨i, o, g, -, there, part, below, eq⟩
  · rw [same]; exact .refl h
  · rw [eq]
    refine (setPart_keeps there (part ▸ Part.keeps_count below) ?_).trans (grantPass_keeps _ i)
    rintro ⟨q, queue, -⟩
    cases part.symm.trans queue

theorem deliver_keeps (h : Hub) (q : Queue) (w : Waiter) (m : Message) : h.Keeps (h.deliver q w m) :=
  (h.endWait_keeps _ _ _).trans (notice_keeps _ _ _ _ _)

/-- One turn of the hand-out: it ends, or the oldest READY message is claimed for the waiter (R89). -/
theorem handOut_cons (i : Fin 48) (st : Stamp) (rest : List Stamp) (h : Hub) :
    (handOut i (st :: rest) h = h ∧ ∀ o q w, h.objAt i = some o → o.part = .queue q → h.findWaiter st = some w →
      q.readyCount = 0) ∨
    ∃ o q w m ms, h.objAt i = some o ∧ o.part = .queue q ∧ h.findWaiter st = some w ∧
      Queue.claimOldest ⟨w.link, w.session, .notice⟩ q.messages = some (m, ms) ∧
      handOut i (st :: rest) h = handOut i rest
        ((h.setPart i (.queue { q with messages := ms, waitList := q.waitList.tail })).deliver
          { q with messages := ms, waitList := q.waitList.tail } w m) := by
  rw [handOut]
  split
  · rename_i q w is found
    obtain ⟨o, there, part⟩ := part_of_bind is
    have part := part_queue part
    rcases claims : Queue.claimOldest ⟨w.link, w.session, .notice⟩ q.messages with _ | ⟨m, ms⟩
    · refine Or.inl ⟨rfl, fun o' q' w' there' part' _ => ?_⟩
      cases there.symm.trans there'
      cases part.symm.trans part'
      rcases Queue.claimOldest_spec ⟨w.link, w.session, .notice⟩ q.messages with ⟨zero, -⟩ | ⟨_, _, _, -, -, -, -, some⟩
      · exact zero
      · cases claims.symm.trans some
    · exact Or.inr ⟨o, q, w, m, ms, there, part, found, claims, rfl⟩
  · rename_i no
    refine Or.inl ⟨rfl, fun o q w there part found => ?_⟩
    exact (no q w (by rw [there, Option.bind_some, part]; rfl) found).elim

theorem readyCount_pos_of_claim {q : Queue} {c : Claimant} {p : Message × List Message}
    (claims : Queue.claimOldest c q.messages = some p) : 0 < q.readyCount := by
  rcases Queue.claimOldest_spec c q.messages with ⟨-, no⟩ | ⟨_, _, _, -, -, -, pos, -⟩
  · rw [no] at claims; cases claims
  · exact pos

/-- A queue with a READY message is not that of a DRAINING slot. -/
theorem not_drained_of_ready {q : Queue} (ready : 0 < q.readyCount) : ¬ (Part.queue q).Drained := by
  rintro ⟨q', is, -, none, -⟩
  cases is
  omega

theorem handOut_keeps (i : Fin 48) (sts : List Stamp) (h : Hub) : h.Keeps (handOut i sts h) := by
  induction sts generalizing h with
  | nil => exact .refl h
  | cons st sts ih =>
    rcases handOut_cons i st sts h with ⟨same, -⟩ | ⟨o, q, w, m, ms, there, part, -, claims, eq⟩
    · rw [same]; exact .refl h
    · rw [eq]
      refine ((setPart_keeps there ?_ fun drained => ?_).trans (deliver_keeps _ _ _ _)).trans (ih _)
      · rw [part]; exact Part.keeps_queue (Queue.keeps_claimed _ claims)
      · exact absurd (part ▸ drained) (not_drained_of_ready (readyCount_pos_of_claim claims))

end Hub
end Sys2Proof.Machine
end

section
/-! What the items that the engine takes keep: reports, the purge, and the requests; what CREATE and the waiter stage add is sound. -/

namespace Sys2Proof.Machine

/-! ### Messages that become SPENT (R75, R82, R86) -/

/-- A queue without waiters and without READY messages whose oldest message is not SPENT holds a claimed message. -/
theorem Queue.drained {q : Queue} (alone : q.waitList = []) (unready : ∀ m ∈ q.messages, m.state ≠ .ready)
    (head : q.messages.head?.map Message.isSpent ≠ some true) (left : q.messages ≠ []) : (Part.queue q).Drained := by
  refine ⟨q, rfl, alone, List.countP_eq_zero.2 fun m mem => by simpa [Message.isReady] using unready m mem, ?_⟩
  cases messages : q.messages with
  | nil => exact absurd messages left
  | cons m ms =>
    rw [messages] at unready head
    refine List.countP_pos_iff.2 ⟨m, messages ▸ List.mem_cons_self, ?_⟩
    have ready := unready m List.mem_cons_self
    cases state : m.state <;> simp_all [Message.isClaimed, Message.isSpent]

theorem Queue.head_reclaim_unspent (q : Queue) : q.reclaim.messages.head?.map Message.isSpent ≠ some true := by
  have first := List.head?_dropWhile_not Message.isSpent q.messages
  rcases head : (q.messages.dropWhile Message.isSpent).head? with _ | m
  · simp [reclaim, head]
  · simp only [head] at first; simp [reclaim, head, first]

theorem Queue.mem_reclaim {q : Queue} {m : Message} (mem : m ∈ q.reclaim.messages) : m ∈ q.messages :=
  (List.dropWhile_suffix _).mem mem

/-- A message that a change of states makes SPENT or leaves is READY only if it was. -/
theorem ready_of_spent {m : Message} {b : Bool} (ready : (if b then { m with state := .spent } else m).state = .ready) :
    m.state = .ready := by
  cases b
  · exact ready
  · cases ready

/-- A drained queue some of whose messages become SPENT is drained after reclamation, if a message is left. -/
theorem Queue.drained_spend {q : Queue} (drained : (Part.queue q).Drained) (spent : Message → Bool) {q' : Queue}
    (frame : q' = { q with messages := q.messages.map fun m => if spent m then { m with state := .spent } else m })
    (left : q'.reclaim.messages ≠ []) : (Part.queue q'.reclaim).Drained := by
  obtain ⟨q0, is, alone, none, -⟩ := drained
  cases is
  have unready := List.countP_eq_zero.1 none
  refine Queue.drained (by rw [frame]; exact alone) (fun m mem ready => ?_) q'.head_reclaim_unspent left
  have mem := Queue.mem_reclaim mem
  rw [frame] at mem
  obtain ⟨m', mem', rfl⟩ := List.mem_map.1 mem
  exact unready m' mem' (by simp [Message.isReady, ready_of_spent ready])

theorem layout_spend (spent : Message → Bool) (next : MessageState) (m : Message) :
    (if spent m then { m with state := next } else m : Message).layout = m.layout := by
  split <;> rfl

namespace Hub

/-- Messages of a queue become SPENT, and reclamation runs; a DRAINING slot without messages is freed (R75, R82). -/
theorem setReclaimed_keeps {h : Hub} {i : Fin 48} {o : Obj} {q : Queue} (there : h.objAt i = some o)
    (part : o.part = .queue q) (spent : Message → Bool) :
    h.Keeps (h.setReclaimed i
      { q with messages := q.messages.map fun m => if spent m then { m with state := .spent } else m }) := by
  rw [setReclaimed_eq there]
  split
  · exact setSlot_keeps (Slot.keeps_free rfl)
  · rename_i stays
    have there' := there
    unfold objAt at there'
    refine setSlot_keeps (Slot.keeps_part there' (o' := { o with part := _ }) ?_
      (part ▸ Part.keeps_queue (q.keeps_reclaimed (layout_spend spent .spent) q.waitList)) fun was is => ?_)
    · cases state : (h.slot i).state <;> rw [state] at there' <;> cases there' <;> rfl
    · have draining : (h.slot i).state = .draining o := by
        cases state : (h.slot i).state <;> rw [state] at there' is <;> cases there' <;> simp [SlotState.modObj] at is ⊢
      exact Queue.drained_spend (part ▸ was draining) spent rfl fun empty => stays ⟨draining, empty⟩

/-! ### Reports and expiry items -/

theorem freeWaiter_keeps (h : Hub) (st : Stamp) : h.Keeps (h.freeWaiter st) := by
  unfold freeWaiter
  repeat' split
  · exact .refl h
  · exact h.filterRecords_keeps _
  · exact .refl h

/-- A "spend message" report is dropped, or the messages that match it become SPENT (R82). -/
theorem spendMessage_cases (h : Hub) (l : Link) (ref : MessageRef) (session : Nat) (c : Carrier) :
    h.spendMessage l ref session c = h ∨ ∃ i o q, h.slotOf ref.queue = some i ∧ h.objAt i = some o ∧ o.part = .queue q ∧
      h.spendMessage l ref session c = h.setReclaimed i { q with
        messages := q.messages.map fun m => if spends l ref.seq session c m then { m with state := .spent } else m } := by
  unfold spendMessage
  split
  · exact Or.inl rfl
  · rename_i i names
    split
    · exact Or.inl rfl
    · rename_i q is
      obtain ⟨o, there, part⟩ := part_of_bind is
      split
      · exact Or.inr ⟨i, o, q, names, there, part_queue part, rfl⟩
      · exact Or.inl rfl

theorem spendMessage_keeps (h : Hub) (l : Link) (ref : MessageRef) (session : Nat) (c : Carrier) :
    h.Keeps (h.spendMessage l ref session c) := by
  rcases h.spendMessage_cases l ref session c with same | ⟨i, o, q, -, there, part, eq⟩
  · rw [same]; exact .refl h
  · rw [eq]; exact setReclaimed_keeps there part _

theorem expireRecord_keeps (h : Hub) (w : Waiter) : h.Keeps (h.expireRecord w) := by
  have expired : h.Keeps (h.modWaiter w.stamp fun x => { x with state := .expired }) := modWaiter_keeps fun _ => rfl
  exact expired.trans (notice_keeps _ _ _ _ _)

theorem expire_keeps (h : Hub) (st : Stamp) : h.Keeps (h.expire st) := by
  unfold expire
  repeat' split
  · exact .refl h
  · exact ((h.leaveWaitList_keeps _ _).trans (expireRecord_keeps _ _)).trans (passIfHead_keeps _ _ _)
  · exact h.expireRecord_keeps _
  · exact .refl h

/-! ### The purge (R113) -/

theorem without_keeps (h : Hub) (l : Link) (ws : List Stamp) : h.Keeps (h.without l ws) := keeps_of_same rfl rfl rfl

/-- A LIVE slot once the link's entries are removed and its part is set. -/
theorem purged_keeps {h : Hub} {i : Fin 48} {o : Obj} {p : Part} (l : Link) (ws : List Stamp)
    (live : (h.slot i).state = .live o) (keeps : o.part.Keeps p) : h.Keeps ((h.without l ws).setLive i o p) :=
  (h.without_keeps l ws).trans (setLive_keeps live keeps)

theorem purgeSlot_keeps (l : Link) (h : Hub) (i : Fin 48) : h.Keeps (purgeSlot l h i).1 := by
  cases state : (h.slot i).state with
  | free => simp only [purgeSlot, state]; exact .refl h
  | live o =>
    cases part : o.part with
    | resource r =>
      rw [purgeSlot_resource l state part]
      have purged := purged_keeps l r.waitList state (part ▸ Part.keeps_purgeHolding r l (h.kept l r.waitList))
      dsimp only
      split
      · exact purged
      · exact purged.trans (grantPass_keeps _ i)
    | signal g =>
      rw [purgeSlot_signal l state part]
      have same : (Part.signal g).Keeps (.signal { g with waitList := h.kept l g.waitList }) := Part.keeps_signal id
      have purged := purged_keeps l g.waitList state (part ▸ same)
      dsimp only
      split
      · exact purged
      · exact purged.trans (grantPass_keeps _ i)
    | queue q =>
      rw [purgeSlot_liveQueue l state part]
      exact (purged_keeps l q.waitList state (part ▸ Part.keeps_queue
        (q.keeps_reclaimed (layout_spend (fun m => m.claimedBy l) .ready) (h.kept l q.waitList)))).trans (handOut_keeps i _ _)
  | draining o =>
    cases part : o.part with
    | resource r | signal g => simp only [purgeSlot, state, part]; exact .refl h
    | queue q =>
      rw [purgeSlot_drainingQueue l state part]
      refine (h.without_keeps l q.waitList).trans (setSlot_keeps ?_)
      split
      · exact Slot.keeps_free rfl
      · rename_i left
        refine Slot.keeps_part (by rw [slot_without, state]; rfl) rfl (part ▸ Part.keeps_queue
          (q.keeps_reclaimed (layout_spend (fun m => m.claimedBy l) .spent) (h.kept l q.waitList))) fun was _ => ?_
        have drained : (Part.queue q).Drained := part ▸ was state
        obtain ⟨q1, is, alone, counts⟩ := Queue.drained_spend drained (fun m => m.claimedBy l) rfl left
        obtain ⟨q0, is0, empty, -⟩ := drained
        cases is
        cases is0
        exact ⟨_, rfl, by simp [kept, empty], counts⟩

theorem purgeSlots_keeps (l : Link) (is : List (Fin 48)) (h : Hub) : h.Keeps (purgeSlots l is h).1 := by
  induction is generalizing h with
  | nil => exact .refl h
  | cons i is ih => exact (purgeSlot_keeps l h i).trans (ih _)

theorem purgeCompletion_keeps (h : Hub) (l : Link) : h.Keeps (h.purgeCompletion l) := by
  unfold purgeCompletion
  split
  · rw [leaveEnding_frame]; exact keeps_of_same rfl rfl rfl
  · exact .refl h

theorem purge_keeps (h : Hub) (l : Link) : h.Keeps (h.purge l) := by
  unfold purge
  exact (((purgeSlots_keeps l slotNumbers h).trans (filterRecords_keeps _ _)).trans
    (.foldl signalCompanion_keeps _ _)).trans (purgeCompletion_keeps _ l)

theorem hubReset_keeps (h : Hub) (l : Link) (rq : Request) : h.Keeps (h.hubReset l rq) := by
  rcases right : h.manages l
  · have refused : h.hubReset l rq = h.refuse l rq .denied := by simp [hubReset, right]
    rw [refused]; exact keeps_of_same rfl rfl rfl
  · rw [hubReset_frame rq right]
    refine keeps_of_keys (fun i => ?_) rfl (List.nil_sublist _)
    simp only [slot, Fin.getElem_fin, Vector.getElem_map]
    exact Slot.keeps_atHubReset _

/-! ### The waiter stage (R45 to R48) -/

/-- The record of a new waiter. -/
def newWaiter (h : Hub) (l : Link) (rq : Request) (hd : Handle) (op : WaitOp) (amount priority timeout : Nat) : Waiter :=
  { link := l, session := rq.session, tag := rq.tag, object := hd, op := op, amount := amount, priority := priority,
    deadline := deadlineOf h.tick timeout, stamp := h.stampCounter + 1, state := .waiting, message := none }

theorem insertClaim_records (h : Hub) (e : DeadlineEntry) :
    (h.insertClaim e).slots = h.slots ∧ (h.insertClaim e).waiters = h.waiters := by
  unfold insertClaim; split <;> exact ⟨rfl, rfl⟩

/-- What a new waiter leaves of the object table and of the records. -/
theorem makeWaiter_records (h : Hub) (ticks : Nat) (l : Link) (rq : Request) (hd : Handle) (i : Fin 48) (d : Discipline)
    (op : WaitOp) (amount priority timeout : Nat) :
    (h.makeWaiter ticks l rq hd i d op amount priority timeout).slots =
        (h.setWaitListAt i (h.insertWaiter d priority (h.stampCounter + 1) (h.waitListAt i))).slots ∧
      (h.makeWaiter ticks l rq hd i d op amount priority timeout).waiters =
        h.waiters ++ [h.newWaiter l rq hd op amount priority timeout] := by
  simp only [makeWaiter, reply_slots, reply_waiters]
  split
  · obtain ⟨slots, waiters⟩ := insertClaim_records (tickEvents ticks (Hub.setWaitListAt
      { h with stampCounter := h.stampCounter + 1, waiters := h.waiters ++ [h.newWaiter l rq hd op amount priority timeout] } i
        (h.insertWaiter d priority (h.stampCounter + 1) (h.waitListAt i)))) { stamp := h.stampCounter + 1, deadline := _ }
    exact ⟨slots.trans (tickEvents_slots _ _), waiters.trans (tickEvents_waiters _ _)⟩
  · exact ⟨rfl, rfl⟩

/-- What the two refusals of the waiter stage leave (R46, R47). -/
theorem waiterRefusal_none {h : Hub} {l : Link} {tag : Byte} (passes : h.waiterRefusal l tag = none) :
    (∀ w ∈ h.waiters, w.link = l → w.tag ≠ tag) ∧ h.owned l < 24 := by
  unfold waiterRefusal at passes
  split at passes
  · cases passes
  · rename_i unused
    split at passes
    · cases passes
    · rename_i few
      refine ⟨fun w mem link named => unused ?_, Nat.lt_of_not_le few⟩
      rw [findTag_isSome, List.any_eq_true]
      exact ⟨w, mem, by simp [link, named]⟩

/-- A waiter that the waiter stage lets pass has a stamp and a tag of its own. -/
theorem makeWaiter_keeps {h : Hub} (ticks : Nat) {l : Link} {rq : Request} (hd : Handle) {i : Fin 48} {o : Obj} (d : Discipline)
    (op : WaitOp) (amount priority timeout : Nat) (live : (h.slot i).state = .live o)
    (passes : h.waiterRefusal l rq.tag = none) :
    h.Keeps (h.makeWaiter ticks l rq hd i d op amount priority timeout) := by
  obtain ⟨slots, waiters⟩ := h.makeWaiter_records ticks l rq hd i d op amount priority timeout
  have counter := h.stampCounter_makeWaiter ticks l rq hd i d op amount priority timeout
  generalize h.makeWaiter ticks l rq hd i d op amount priority timeout = h' at slots waiters counter
  obtain ⟨unused, few⟩ := waiterRefusal_none passes
  refine ⟨fun j => ?_, fun ⟨nodup, range⟩ => ?_, fun distinct m => ?_⟩
  · have same : h'.slot j = (h.setWaitListAt i (h.insertWaiter d priority (h.stampCounter + 1) (h.waitListAt i))).slot j := by
      simp only [slot, slots]
    rw [same, setWaitListAt, modObj, slot_setSlot]
    split
    · subst j
      exact Slot.keeps_part (o := o) (by rw [live]; rfl) (by rw [live]; rfl) (o.part.keeps_setWaitList _)
        fun _ is => by rw [live] at is; cases is
    · exact .refl _
  · rw [StampsDistinct, waiters, counter, List.map_append, List.nodup_append]
    refine ⟨⟨nodup, List.nodup_singleton _, fun a mem b new same => ?_⟩, fun w mem => ?_⟩
    · obtain ⟨w, old, rfl⟩ := List.mem_map.1 mem
      have stamp : b = h.stampCounter + 1 := List.mem_singleton.1 new
      exact Nat.not_succ_le_self h.stampCounter ((Nat.le_of_eq (same.trans stamp).symm).trans (range w old).2)
    · rcases List.mem_append.1 mem with old | new
      · exact ⟨(range w old).1, Nat.le_succ_of_le (range w old).2⟩
      · rw [List.mem_singleton.1 new]; exact ⟨Nat.le_add_left 1 _, Nat.le_refl _⟩
  · obtain ⟨nodup, owned⟩ := distinct m
    have counts : h'.owned m = h.owned m + if l = m then 1 else 0 := by
      simp only [Hub.owned, waiters, List.countP_append, List.countP_singleton, newWaiter, decide_eq_true_eq]
    rw [waiters, List.filter_append, List.map_append, List.nodup_append]
    refine ⟨⟨nodup, ?_, fun a mem b new same => ?_⟩, ?_⟩
    · exact (List.nodup_singleton _).sublist (List.filter_sublist.map Waiter.tag)
    · obtain ⟨w, old, rfl⟩ := List.mem_map.1 mem
      obtain ⟨w', added, rfl⟩ := List.mem_map.1 new
      simp only [List.mem_filter, List.mem_singleton, decide_eq_true_eq] at old added
      obtain ⟨old, link⟩ := old
      obtain ⟨rfl, link'⟩ := added
      exact unused w old (link.trans link'.symm) same
    · split at counts
      · subst m; omega
      · omega

end Hub
end Sys2Proof.Machine
end

section
/-! Every request, every item and every step: what they keep of tokens, message lists, areas, stamps and tags. -/

namespace Sys2Proof.Machine

theorem firstFailing_none {cs : List (Bool × ResultCode)} (none : firstFailing cs = none) : ∀ c ∈ cs, c.1 = false := by
  induction cs with
  | nil => intro c mem; cases mem
  | cons c cs ih =>
    obtain ⟨fails, code⟩ := c
    rw [firstFailing_cons] at none
    cases fails
    · intro x mem
      rcases List.mem_cons.1 mem with rfl | mem
      · rfl
      · exact ih none x mem
    · cases none

namespace Hub

/-! ### What passing the checks says of a request's fields -/

/-- A blocked request that passes its checks has passed the waiter stage (R48). -/
theorem waiterRefusal_of_passes {h : Hub} {l : Link} {tag : Byte} {blocked : Bool} {timeout : Nat} {code : ResultCode}
    (passes : firstFailing (h.waitChecks l tag blocked timeout code) = none) (is : blocked = true) :
    h.waiterRefusal l tag = none := by
  rw [waitChecks_spec, if_pos is] at passes
  split at passes
  · cases passes
  · exact passes

theorem acquire_passed {h : Hub} {l : Link} {rq : Request} {hd : Handle} {amount priority timeout : Nat}
    (body : rq.body = .acquire hd amount priority timeout) (passes : h.refusal l rq = none) :
    1 ≤ amount ∧ (∀ r, h.resourceOf hd = some r → amount ≤ r.limit) ∧
      (h.acquireBlocked hd amount = true → h.waiterRefusal l rq.tag = none) := by
  simp only [refusal, checks, body, firstFailing_append, Option.or_eq_none_iff] at passes
  obtain ⟨⟨-, fields⟩, waits⟩ := passes
  have bad := firstFailing_none fields _ List.mem_cons_self
  simp only [Bool.or_eq_false_iff, decide_eq_false_iff_not] at bad
  refine ⟨Nat.pos_of_ne_zero bad.1, fun r is => ?_, waiterRefusal_of_passes waits⟩
  have le := bad.2
  rw [is] at le
  simpa using le

theorem wait_passed {h : Hub} {l : Link} {rq : Request} {hd : Handle} {priority timeout : Nat}
    (body : rq.body = .wait hd priority timeout) (passes : h.refusal l rq = none) (blocked : h.waitBlocked hd = true) :
    h.waiterRefusal l rq.tag = none := by
  simp only [refusal, checks, body, firstFailing_append, Option.or_eq_none_iff] at passes
  exact waiterRefusal_of_passes passes.2 blocked

theorem receive_passed {h : Hub} {l : Link} {rq : Request} {hd : Handle} {priority timeout : Nat}
    (body : rq.body = .receive hd priority timeout) (passes : h.refusal l rq = none) (blocked : h.receiveBlocked hd = true) :
    h.waiterRefusal l rq.tag = none := by
  simp only [refusal, checks, body, firstFailing_append, Option.or_eq_none_iff] at passes
  exact waiterRefusal_of_passes passes.2 blocked

theorem createSignal_passed {h : Hub} {l : Link} {rq : Request} {c : CreateCommon} {limit initial : Nat}
    (body : rq.body = .createSignal c limit initial) (passes : h.refusal l rq = none) : initial ≤ limit := by
  simp only [refusal, checks, body, firstFailing_append, Option.or_eq_none_iff] at passes
  have bad := firstFailing_none passes.2 _ List.mem_cons_self
  simp only [decide_eq_false_iff_not, not_or] at bad
  exact Nat.le_of_not_lt bad.2

theorem createQueue_passed {h : Hub} {l : Link} {rq : Request} {c : CreateCommon}
    {base blocks maxEntries maxLength threshold present : Nat} {companion : Handle}
    (body : rq.body = .createQueue c base blocks maxEntries maxLength threshold present companion)
    (passes : h.refusal l rq = none) :
    1 ≤ blocks ∧ blocks ≤ 64 ∧ base + blocks ≤ 256 ∧ h.overlapsArea base blocks = false := by
  simp only [refusal, checks, body, firstFailing_append, Option.or_eq_none_iff] at passes
  have fields := firstFailing_none passes.1.2
  have range := fields _ List.mem_cons_self
  have apart := fields _ (List.mem_cons_of_mem _ (List.mem_cons_of_mem _ List.mem_cons_self))
  simp only [decide_eq_false_iff_not] at range
  exact ⟨by omega, by omega, by omega, apart⟩

/-! ### The requests that make no object -/

/-- The hub after a DELETE of a queue: abandoned waiters, and a slot that is FREE or DRAINING (R85). -/
theorem deleteQueue_keeps {h : Hub} (l : Link) (rq : Request) {i : Fin 48} {o : Obj} {q : Queue}
    (live : (h.slot i).state = .live o) (part : o.part = .queue q) : h.Keeps (h.deleteQueue l rq i o q) := by
  have abandoned : h.Keeps (q.waitList.foldl abandon (h.reply l rq .ok [] none)) :=
    (h.reply_keeps l rq .ok [] none).trans (.foldl abandon_keeps _ _)
  have same : (q.waitList.foldl abandon (h.reply l rq .ok [] none)).slot i = h.slot i := by simp [slot]
  rw [deleteQueue_eq]
  refine abandoned.trans (setSlot_keeps ?_)
  rw [same]
  split
  · exact Slot.keeps_free rfl
  · rename_i left
    refine Slot.keeps_part (by rw [live]; rfl) rfl
      (part ▸ Part.keeps_queue (q.keeps_reclaimed (layout_spend Message.isReady .spent) [])) fun _ _ => ?_
    refine Queue.drained rfl (fun m mem ready => ?_) q.spendReady.head_reclaim_unspent left
    obtain ⟨m', -, rfl⟩ := List.mem_map.1 (Queue.mem_reclaim mem)
    have was := ready_of_spent ready
    rw [if_pos (by simp [Message.isReady, was])] at ready
    cases ready

/-- The hub after an accepted SEND has stored its message, put it on the list, and answered (R77). -/
def sent (h : Hub) (l : Link) (rq : Request) (i : Fin 48) (o : Obj) (q : Queue) (payload : List Byte) (m : Message)
    (ws : List Stamp) : Hub :=
  ((h.storeMessage q payload).setLive i o (.queue { q.accept m with waitList := ws })).reply l rq .ok
    (bytes16 (q.newMessage payload).seq.toNat) none

/-- An accepted SEND: its message is claimed for the head waiter, or READY and perhaps followed by a signalling (R77, R80). -/
theorem acceptSend_cases {h : Hub} (l : Link) (rq : Request) {i : Fin 48} {o : Obj} {q : Queue} (payload : List Byte)
    (live : (h.slot i).state = .live o) :
    (∃ w, q.waitList.head?.bind h.findWaiter = some w ∧
      let m := (q.newMessage payload).claim ⟨w.link, w.session, .notice⟩
      h.acceptSend l rq i q payload = (h.sent l rq i o q payload m q.waitList.tail).deliver
        { q.accept m with waitList := q.waitList.tail } w m) ∨
    q.waitList.head?.bind h.findWaiter = none ∧
      let h' := h.sent l rq i o q payload (q.newMessage payload) q.waitList
      (h.acceptSend l rq i q payload = h' ∨ ∃ c, h.acceptSend l rq i q payload = h'.signalCompanion c) := by
  have set (p : Part) : (h.storeMessage q payload).setPart i p = (h.storeMessage q payload).setLive i o p :=
    setPart_live (h := h.storeMessage q payload) live p
  unfold acceptSend sent
  simp only [set]
  split
  · exact Or.inl ⟨_, ‹_›, rfl⟩
  · refine Or.inr ⟨‹_›, ?_⟩
    split
    · exact Or.inr ⟨_, rfl⟩
    · exact Or.inl rfl

theorem sent_keeps {h : Hub} (l : Link) (rq : Request) {i : Fin 48} {o : Obj} {q : Queue} {payload : List Byte}
    {state : MessageState} {deliveries : Nat} (ws : List Stamp) (live : (h.slot i).state = .live o) (part : o.part = .queue q)
    (unspent : state ≠ .spent) (short : payload.length ≤ q.maxLength) (entry : q.messages.length < q.maxEntries)
    (room : footprint payload.length ≤ q.freeBytes) :
    h.Keeps (h.sent l rq i o q payload { q.newMessage payload with state := state, deliveries := deliveries } ws) := by
  have stored : h.Keeps (h.storeMessage q payload) := keeps_of_same rfl rfl rfl
  have keeps := part ▸ Part.keeps_queue (Queue.keeps_accept (deliveries := deliveries) ws unspent short entry room)
  exact (stored.trans (setLive_keeps (h := h.storeMessage q payload) live keeps)).trans (reply_keeps _ _ _ _ _ _)

theorem acceptSend_keeps {h : Hub} (l : Link) (rq : Request) {i : Fin 48} {o : Obj} {q : Queue} {payload : List Byte}
    (live : (h.slot i).state = .live o) (part : o.part = .queue q) (short : payload.length ≤ q.maxLength)
    (entry : q.messages.length < q.maxEntries) (room : footprint payload.length ≤ q.freeBytes) :
    h.Keeps (h.acceptSend l rq i q payload) := by
  rcases acceptSend_cases l rq payload live with ⟨w, -, eq⟩ | ⟨-, eq | ⟨c, eq⟩⟩
  · rw [eq]
    have claimed : MessageState.claimed ⟨w.link, w.session, .notice⟩ ≠ .spent := fun is => nomatch is
    exact (sent_keeps l rq _ live part claimed short entry room).trans (deliver_keeps _ _ _ _)
  · rw [eq]
    exact sent_keeps l rq (state := .ready) (deliveries := 0) _ live part (fun is => nomatch is) short entry room
  · rw [eq]
    exact (sent_keeps l rq (state := .ready) (deliveries := 0) _ live part (fun is => nomatch is) short entry room).trans
      (signalCompanion_keeps _ c)

theorem cancelWaiting_keeps (h : Hub) (l : Link) (rq : Request) (w : Waiter) : h.Keeps (h.cancelWaiting l rq w) := by
  have freed (h : Hub) : h.Keeps ((if w.deadline.isSome then h.removeClaim w.stamp else h).freeRecord w.stamp) := by
    split
    · exact Keeps.trans (h' := h.removeClaim w.stamp) (keeps_of_same rfl rfl rfl) (filterRecords_keeps _ _)
    · exact h.filterRecords_keeps _
  unfold cancelWaiting
  dsimp only
  split
  · exact (((h.leaveWaitList_keeps _ _).trans (freed _)).trans (reply_keeps _ _ _ _ _ _)).trans (passIfHead_keeps _ _ _)
  · exact (freed h).trans (reply_keeps _ _ _ _ _ _)

/-- A request that no check refuses, other than CREATE, makes no object. -/
theorem perform_keeps {h : Hub} {l : Link} {rq : Request} (ticks : Nat) (passes : h.refusal l rq = none)
    (noCreate : rq.body.common? = none) : h.Keeps (rq.body.perform ticks l rq h) := by
  have set {i : Fin 48} {o : Obj} {p : Part} {code : ResultCode} {body : List Byte} {msg : Option MessageRef}
      (live : (h.slot i).state = .live o) (keeps : o.part.Keeps p) : h.Keeps ((h.setLive i o p).reply l rq code body msg) :=
    (setLive_keeps live keeps).trans (reply_keeps _ _ _ _ _ _)
  cases body : rq.body with
  | createResource c => rw [body] at noCreate; cases noCreate
  | createSignal c => rw [body] at noCreate; cases noCreate
  | createQueue c => rw [body] at noCreate; cases noCreate
  | delete hd =>
    obtain ⟨i, o, -, live, eq⟩ := (h.delete_spec l rq hd body).2 passes
    rw [ObjReq.perform, eq]
    split
    · exact (h.freeSlotAt_keeps i).trans (reply_keeps _ _ _ _ _ _)
    · exact ((h.reply_keeps _ _ _ _ _).trans (.foldl abandon_keeps _ _)).trans (freeSlotAt_keeps _ i)
    · exact deleteQueue_keeps l rq live ‹_›
  | lookup name =>
    obtain ⟨i, o, -, -, eq⟩ := (h.lookup_spec l rq name body).2 passes
    rw [ObjReq.perform, eq]; exact reply_keeps _ _ _ _ _ _
  | query hd =>
    obtain ⟨i, o, -, -, eq⟩ := (h.query_spec l rq hd body).2 passes
    rw [ObjReq.perform, eq]; exact reply_keeps _ _ _ _ _ _
  | setAccess hd access =>
    obtain ⟨i, o, -, live, -, eq⟩ := (h.setAccess_spec l rq hd access body).2 passes
    rw [ObjReq.perform, eq]
    refine (setSlot_keeps (Slot.keeps_part (o := o) (o' := { o with access := linkSetOf access }) (by rw [live]; rfl) rfl
      (.refl _) fun _ is => ?_)).trans (reply_keeps _ _ _ _ _ _)
    cases is
  | reclaim hd =>
    obtain ⟨i, o, r, -, live, part, -, eq⟩ := (h.reclaimTokens_spec l rq hd body).2 passes
    rw [ObjReq.perform, eq]
    exact (set live (part ▸ Part.keeps_reclaim r)).trans (grantPass_keeps _ i)
  | acquire hd amount priority timeout =>
    obtain ⟨i, o, r, -, live, part, atOnce, blocked⟩ := (h.acquire_spec ticks l rq hd amount priority timeout body).2 passes
    rcases b : h.acquireBlocked hd amount
    · obtain ⟨-, enough, eq⟩ := atOnce b
      rw [ObjReq.perform, eq]; exact set live (part ▸ Part.keeps_take l r.waitList enough)
    · rw [ObjReq.perform, blocked b]
      have waits := makeWaiter_keeps ticks hd o.discipline .acquire amount priority timeout live
        ((acquire_passed body passes).2.2 b)
      split
      · exact waits.trans (grantPass_keeps _ i)
      · exact waits
  | release hd amount =>
    obtain ⟨i, o, r, -, live, part, held, eq⟩ := (h.release_spec l rq hd amount body).2 passes
    rw [ObjReq.perform, eq]
    exact (set live (part ▸ Part.keeps_giveBack l held)).trans (grantPass_keeps _ i)
  | signal hd amount =>
    obtain ⟨i, o, r, -, live, part, room, eq⟩ := (h.signal_spec l rq hd amount body).2 passes
    rw [ObjReq.perform, eq]
    exact (set live (part ▸ Part.keeps_count room)).trans (grantPass_keeps _ i)
  | wait hd priority timeout =>
    obtain ⟨i, o, g, -, live, part, atOnce, blocked⟩ := (h.wait_spec ticks l rq hd priority timeout body).2 passes
    rcases b : h.waitBlocked hd
    · obtain ⟨-, -, eq⟩ := atOnce b
      rw [ObjReq.perform, eq]; exact set live (part ▸ Part.keeps_event g g.waitList)
    · rw [ObjReq.perform, blocked b]
      exact makeWaiter_keeps ticks hd o.discipline .wait 1 priority timeout live (wait_passed body passes b)
  | cancel tag =>
    obtain ⟨w, -, -, -, -, eq⟩ := (h.cancel_spec l rq tag body).2 passes
    rw [ObjReq.perform, eq]; exact h.cancelWaiting_keeps l rq w
  | send hd payload =>
    obtain ⟨i, o, q, -, live, part, short, entry, room, eq⟩ := (h.send_spec l rq hd payload body).2 passes
    rw [ObjReq.perform, eq]; exact acceptSend_keeps l rq live part short entry room
  | receive hd priority timeout =>
    obtain ⟨i, o, q, -, live, part, atOnce, blocked⟩ := (h.receive_spec ticks l rq hd priority timeout body).2 passes
    rcases b : h.receiveBlocked hd
    · obtain ⟨older, m, newer, messages, _, ready, eq⟩ := atOnce b
      rw [ObjReq.perform, eq]
      exact set live (part ▸ Part.keeps_queue (Queue.keeps_claim _ q.waitList messages))
    · rw [ObjReq.perform, blocked b]
      exact makeWaiter_keeps ticks hd o.discipline .receive 1 priority timeout live (receive_passed body passes b)
  | flush hd =>
    obtain ⟨i, o, q, -, live, part, eq⟩ := (h.flush_spec l rq hd body).2 passes
    rw [ObjReq.perform, eq]
    exact set live (part ▸ Part.keeps_queue (q.keeps_reclaimed (layout_spend Message.isReady .spent) q.waitList))
  | evict target =>
    obtain ⟨t, -, -, eq⟩ := (h.evict_spec l rq target body).2 passes
    rw [ObjReq.perform, eq]; exact keeps_of_same rfl rfl rfl
  | hubReset => exact h.hubReset_keeps l rq

/-! ### CREATE (R12, R24, R25, R70) -/

/-- From `h` to `h'` each of the invariants of the object table and of the records holds on. -/
structure KeepsEngine (h h' : Hub) : Prop where
  tokens : h.TokensConserved → h'.TokensConserved
  queues : h.QueuesSound → h'.QueuesSound
  stamps : h.StampsDistinct → h'.StampsDistinct
  tags : h.TagsDistinct → h'.TagsDistinct

theorem KeepsEngine.trans {h h' h'' : Hub} (first : h.KeepsEngine h') (second : h'.KeepsEngine h'') : h.KeepsEngine h'' :=
  ⟨fun x => second.tokens (first.tokens x), fun x => second.queues (first.queues x), fun x => second.stamps (first.stamps x),
    fun x => second.tags (first.tags x)⟩

theorem Keeps.keepsEngine {h h' : Hub} (keeps : h.Keeps h') : h.KeepsEngine h' where
  tokens := fun conserved i => (keeps.slots i).tokens (conserved i)
  queues := fun ⟨each, apart, draining⟩ => by
    refine ⟨fun i o' q' is' part' => ?_, fun i j oi oj qi qj isi isj parti partj ne => ?_,
      fun i => (keeps.slots i).drained (draining i)⟩
    · obtain ⟨o, q, is, part, kept⟩ := (keeps.slots i).queue o' q' is' part'
      obtain ⟨fits, chain⟩ := each i o q is part
      exact kept.sound fits chain
    · obtain ⟨oi', qi', isi', parti', kepti⟩ := (keeps.slots i).queue oi qi isi parti
      obtain ⟨oj', qj', isj', partj', keptj⟩ := (keeps.slots j).queue oj qj isj partj
      rw [kepti.base, kepti.blocks, keptj.base, keptj.blocks]
      exact apart i j oi' oj' qi' qj' isi' isj' parti' partj' ne
  stamps := keeps.stamps
  tags := keeps.tags

theorem areasShare_comm (base1 blocks1 base2 blocks2 : Nat) :
    areasShare base1 blocks1 base2 blocks2 = areasShare base2 blocks2 base1 blocks1 := Bool.and_comm _ _

/-- A part that a new object may have: its tokens are in order, and a queue's area meets no other queue's. -/
structure NewPart (h : Hub) (p : Part) : Prop where
  conserved : p.Conserved
  queue : ∀ q, p = .queue q → q.Fits ∧ q.chained q.messages = true ∧
    ∀ j o q', h.objAt j = some o → o.part = .queue q' → areasShare q.base q.blocks q'.base q'.blocks = false
  noWaiter : p.waitList = []

/-- An object that is made in a FREE slot. -/
theorem setSlot_created {h : Hub} {i : Fin 48} {o : Obj} {g : Nat} (new : h.NewPart o.part) :
    h.KeepsEngine (h.setSlot i { gen := g, state := .live o }) where
  tokens := fun conserved j x is => by
    rw [objAt_setSlot] at is
    split at is
    · cases is; exact new.conserved
    · exact conserved j x is
  queues := fun ⟨each, apart, draining⟩ => by
    refine ⟨fun j x q is part => ?_, fun j k oj ok qj qk isj isk partj partk ne => ?_, fun j x is => ?_⟩
    · rw [objAt_setSlot] at is
      split at is
      · cases is; exact ⟨(new.queue q part).1, (new.queue q part).2.1⟩
      · exact each j x q is part
    · rw [objAt_setSlot] at isj isk
      split at isj <;> split at isk
      · exact absurd (‹i = j›.symm.trans ‹i = k›) ne
      · cases isj; exact (new.queue qj partj).2.2 k ok qk isk partk
      · cases isk; rw [areasShare_comm]; exact (new.queue qk partk).2.2 j oj qj isj partj
      · exact apart j k oj ok qj qk isj isk partj partk ne
    · rw [slot_setSlot] at is
      split at is
      · cases is
      · exact draining j x is
  stamps := id
  tags := id

/-- A CREATE request that no check refuses makes an object with a sound part. -/
theorem perform_creates {h : Hub} {l : Link} {rq : Request} {c : CreateCommon} (ticks : Nat)
    (is : rq.body.common? = some c) (passes : h.refusal l rq = none) :
    ∃ p, h.NewPart p ∧ h.Created l rq c p (rq.body.perform ticks l rq h) := by
  cases body : rq.body <;> rw [body] at is <;> cases is
  case createResource limit robust =>
    refine ⟨_, ⟨Part.conserved_resource.2 ?_, fun q is => (nomatch is), rfl⟩,
      (h.createResource_spec l rq c limit robust body).2 passes⟩
    simp [Resource.Balanced, PerLink.all]
  case createSignal limit initial =>
    exact ⟨_, ⟨Part.conserved_signal.2 (createSignal_passed body passes), fun q is => (nomatch is), rfl⟩,
      (h.createSignal_spec l rq c limit initial body).2 passes⟩
  case createQueue base blocks maxEntries maxLength threshold present companion =>
    obtain ⟨lo, hi, area, apart⟩ := createQueue_passed body passes
    refine ⟨_, ⟨Part.conserved_queue _, fun q is => ?_, rfl⟩,
      (h.createQueue_spec l rq c base blocks maxEntries maxLength threshold present companion body).2 passes⟩
    cases is
    refine ⟨⟨lo, hi, area, ?_, Nat.zero_le _, by simp, by simp⟩, rfl, fun j o q' there part => ?_⟩
    · simp [Queue.used]
    · have not := List.any_eq_false.1 apart j (List.mem_finRange j)
      simpa [there, part, Part.queue?] using not

/-- A request that the engine takes. -/
theorem request_keepsEngine {h : Hub} {l : Link} {rq : Request} (ticks : Nat) :
    h.KeepsEngine (rq.body.perform ticks l rq (h.takeFrom l)) := by
  have taken := h.takeFrom_keeps l
  rcases passes : (h.takeFrom l).refusal l rq with _ | code
  · rcases create : rq.body.common? with _ | c
    · exact (taken.trans (perform_keeps ticks passes create)).keepsEngine
    · obtain ⟨p, new, i, -, -, eq⟩ := perform_creates ticks create passes
      rw [eq, create_eq]
      exact (taken.keepsEngine.trans (setSlot_created new)).trans (reply_keeps _ _ _ _ _ _).keepsEngine
  · rw [perform_refused ticks passes]
    exact (taken.trans (reply_keeps _ _ _ _ _ _)).keepsEngine

/-! ### What no item of the engine changes -/

/-- The object table, the records and the stamp counter. -/
def records (h : Hub) : Vector Slot 48 × List Waiter × Stamp := (h.slots, h.waiters, h.stampCounter)

theorem keeps_of_records {h h' : Hub} (same : h'.records = h.records) : h.Keeps h' := by
  simp only [records, Prod.mk.injEq] at same
  exact keeps_of_same same.1 same.2.1 same.2.2

theorem serveHello_records (h : Hub) (l : Link) (slot : Fin 4) (f : RxFrame) (he : Hello) :
    (h.serveHello l slot f he).records = h.records := by
  unfold serveHello
  split
  · split <;> rfl
  · rw [answerHello_frame]; rfl

theorem serve_records (h : Hub) (l : Link) (slot : Fin 4) (f : RxFrame) : (h.serve l slot f).records = h.records := by
  unfold serve
  split
  · rfl
  · rfl
  · exact h.serveHello_records l slot f _
  · unfold serveBye; split <;> rfl
  · unfold servePing; split <;> rfl
  · unfold serveLinkStatus
    repeat' split
    all_goals rfl
  · unfold serveRequest; split <;> rfl

theorem goodFrame_records (h : Hub) (l : Link) (f : RxFrame) : (h.goodFrame l f).records = h.records := by
  unfold goodFrame goodFrameEnding
  split
  · split <;> rfl
  · dsimp only
    split
    · rfl
    · rw [serve_records]; rfl

theorem closeFrame_records (h : Hub) (l : Link) : (h.closeFrame l).records = h.records := by
  unfold closeFrame
  split
  · rfl
  · rw [goodFrame_records]; rfl

theorem closeGood_records (h : Hub) (l : Link) (sort : Option ReqKind → Bool) : (h.closeGood l sort).records = h.records := by
  unfold closeGood
  split
  · exact h.closeFrame_records l
  · rfl

theorem goodCharacter_records (h : Hub) (l : Link) (v : Byte) : (h.goodCharacter l v).records = h.records := by
  unfold goodCharacter
  split
  · exact h.closeFrame_records l
  · rfl

theorem lineBreak_records (h : Hub) (l : Link) : (h.lineBreak l).records = h.records := by
  unfold lineBreak
  repeat' split
  all_goals rfl

theorem frameCompletes_records (h : Hub) (l : Link) : (h.frameCompletes l).records = h.records := by
  unfold frameCompletes
  dsimp only
  repeat' split
  all_goals rfl

theorem catchUp_records (h : Hub) : h.catchUp.records = h.records := by
  simp only [records, catchUp_slots, catchUp_waiters, catchUp_stampCounter]

end Hub

theorem State.onHub_records (s : State) {f : Hub → Hub} (same : ∀ h : Hub, (f h).records = h.records) :
    ∃ t, s.onHub f = .next t ∧ t.toHub.records = s.toHub.records :=
  ⟨_, s.onHub_next f, by rw [State.withHub, same, Hub.catchUp_records]⟩

/-- A command that takes no item, other than PIN_RESET, changes no object and no record. -/
theorem exec_records {c : Instr} (s : State) (takes : c.takesItem = false) (noReset : ∀ p, c ≠ .pinReset p) :
    ∃ t, exec c s = .next t ∧ t.toHub.records = s.toHub.records := by
  cases c <;> dsimp only [exec]
  case pinReset p => exact absurd rfl (noReset p)
  case tickEvent => exact s.onHub_records fun _ => rfl
  case deadlineDue => exact ⟨_, rfl, rfl⟩
  case keepaliveLapse l => exact ⟨_, rfl, by rw [Hub.lapse_frame]; rfl⟩
  case lineBreak l => exact s.onHub_records fun h => h.lineBreak_records l
  case settlingComplete l => exact s.onHub_records fun _ => rfl
  case receiveError l cause => exact s.onHub_records fun _ => by split <;> rfl
  case abortMark l => exact s.onHub_records fun _ => by split <;> rfl
  case unknownKind l | hello l | bye l | ping l | linkStatus l | objectRequest l =>
    exact s.onHub_records fun h => h.closeGood_records l _
  case sessionEndTeardown l => exact s.onHub_records fun _ => by split <;> rfl
  case frameComplete l => exact s.onHub_records fun h => h.frameCompletes_records l
  case goodCharacter l v => exact s.onHub_records fun h => h.goodCharacter_records l v
  all_goals cases takes

/-- What the engine does with the item that it takes, `ticks` tick events falling before an insert claim (R97, R108). -/
def Turn.perform (turn : Turn) (ticks : Nat) (h : Hub) : Hub :=
  match turn with
  | .item l (.request rq) => rq.body.perform ticks l rq (h.takeFrom l)
  | .item l (.freeWaiter st) => (h.takeFrom l).freeWaiter st
  | .item l (.spendMessage ref session c) => (h.takeFrom l).spendMessage l ref session c
  | .item l .purge => (h.takeFrom l).purge l
  | .expiry st => h.takeExpiry.moveDue.expire st

theorem exec_turn {s : State} {turn : Turn} (ticks : Nat) (given : s.toHub.catchUp.turn = some turn) :
    exec (turn.command ticks) s = .next (s.withHub (turn.perform ticks s.toHub.catchUp)) :=
  match turn, given with
  | .item _ (.request _), given => exec_request ticks given
  | .item _ (.freeWaiter _), given => exec_freeWaiter given
  | .item _ (.spendMessage ..), given => exec_spendMessage given
  | .item _ .purge, given => exec_purge given
  | .expiry _, given => exec_expiry given

/-- What a command does to the engine: nothing, a pin reset, or the item that the arbiter gives. -/
theorem exec_cases (c : Instr) (s : State) : ∃ t, exec c s = .next t ∧
    (t.toHub.records = s.toHub.records ∨ (∃ p, t.toHub = Hub.reset p) ∨
      ∃ ticks turn, s.toHub.catchUp.turn = some turn ∧ t.toHub = turn.perform ticks s.toHub.catchUp) := by
  rcases takes : c.takesItem
  · by_cases reset : ∃ p, c = .pinReset p
    · obtain ⟨p, rfl⟩ := reset
      exact ⟨_, exec_pinReset p s, Or.inr (Or.inl ⟨p, rfl⟩)⟩
    · obtain ⟨t, run, same⟩ := exec_records s takes fun p is => reset ⟨p, is⟩
      exact ⟨t, run, Or.inl same⟩
  · rcases exec_item s takes with idle | ⟨ticks, turn, given, rfl⟩
    · exact ⟨_, idle, Or.inl s.toHub.catchUp_records⟩
    · exact ⟨_, exec_turn ticks given, Or.inr (Or.inr ⟨ticks, turn, given, rfl⟩)⟩

/-- What a step does to the engine. -/
theorem step_cases (s : State) : ∃ t, step s = .next t ∧
    (t.toHub.records = s.toHub.records ∨ (∃ p, t.toHub = Hub.reset p) ∨
      ∃ ticks turn, s.toHub.catchUp.turn = some turn ∧ t.toHub = turn.perform ticks s.toHub.catchUp) := by
  unfold step
  split
  · obtain ⟨t, run, same⟩ := s.onHub_records (f := Hub.charTime) fun _ => rfl
    exact ⟨t, run, Or.inl same⟩
  · rename_i c rest _
    exact exec_cases c { s with pending := rest }

namespace Hub

theorem turn_keepsEngine (turn : Turn) (ticks : Nat) (h : Hub) : h.KeepsEngine (turn.perform ticks h) :=
  match turn with
  | .item _ (.request _) => request_keepsEngine ticks
  | .item l (.freeWaiter st) => ((h.takeFrom_keeps l).trans (freeWaiter_keeps _ st)).keepsEngine
  | .item l (.spendMessage ref session c) => ((h.takeFrom_keeps l).trans (spendMessage_keeps _ l ref session c)).keepsEngine
  | .item l .purge => ((h.takeFrom_keeps l).trans (purge_keeps _ l)).keepsEngine
  | .expiry st =>
    have moved : h.Keeps h.takeExpiry.moveDue := keeps_of_same rfl rfl rfl
    (moved.trans (expire_keeps _ st)).keepsEngine

theorem reset_keepsEngine (h : Hub) (p : Straps) : h.KeepsEngine (reset p) :=
  ⟨fun _ => reset_tokensConserved p, fun _ => reset_queuesSound p, fun _ => ⟨List.nodup_nil, fun _ mem => nomatch mem⟩,
    fun _ _ => ⟨List.nodup_nil, Nat.zero_le _⟩⟩

end Hub

/-- Every step keeps tokens, message lists, areas, stamps and tags, each by itself. -/
theorem step_keepsEngine {s t : State} (run : step s = .next t) : s.toHub.KeepsEngine t.toHub := by
  obtain ⟨t', run', did⟩ := step_cases s
  cases run.symm.trans run'
  rcases did with same | ⟨p, reset⟩ | ⟨ticks, turn, -, eq⟩
  · exact (Hub.keeps_of_records same).keepsEngine
  · rw [reset]; exact Hub.reset_keepsEngine _ p
  · rw [eq]
    exact (Hub.keeps_of_records s.toHub.catchUp_records).keepsEngine.trans (Hub.turn_keepsEngine turn ticks _)

/-- Settles O55: no operation of the engine makes or loses a token, or takes a count past its limit. -/
theorem stepConservesTokens : Obligations.StepConservesTokens :=
  fun _ _ conserved run => (step_keepsEngine run).tokens conserved

end Sys2Proof.Machine
end

section
/-! The wait lists slot by slot (R27, R51, R72): a slot's list against the records that wait there, what one operation does to both,
and the grant pass and the hand-out, which leave no head that could be satisfied. -/

namespace Sys2Proof.Machine

/-! ### One slot -/

def Slot.waitList (s : Slot) : List Stamp :=
  match s.state.obj with
  | some o => o.part.waitList
  | none => []

/-- The part cannot satisfy the record (R27, R72). -/
def Part.Blocks (p : Part) (w : Waiter) : Prop :=
  match p with
  | .resource r => r.available < w.amount
  | .signal g => g.count = 0
  | .queue q => q.readyCount = 0

namespace Slot

theorem waitList_of_obj {s : Slot} {o : Obj} (there : s.state.obj = some o) : s.waitList = o.part.waitList := by
  simp only [waitList, there]

/-- The wait list of a slot holds the stamps of the records `W`, once each; they name the object there, which serves them. -/
structure Lists (s : Slot) (W : Waiter → Prop) : Prop where
  nodup : s.waitList.Nodup
  mem : ∀ st, st ∈ s.waitList ↔ ∃ w, W w ∧ w.stamp = st
  gen : ∀ w, W w → w.object.gen = s.gen
  serves : ∀ o w, s.state.obj = some o → W w → o.part.Serves w

/-- The object of a slot cannot satisfy the head of its wait list. -/
def Settled (s : Slot) (W : Waiter → Prop) : Prop :=
  ∀ o st rest w, s.state.obj = some o → o.part.waitList = st :: rest → W w → w.stamp = st → o.part.Blocks w

/-- A slot without waiters. -/
theorem lists_empty {s : Slot} {W : Waiter → Prop} (empty : s.waitList = []) (none : ∀ w, ¬ W w) : s.Lists W :=
  ⟨empty ▸ List.nodup_nil, fun _ => ⟨fun mem => (nomatch empty ▸ mem), fun ⟨w, waits, _⟩ => absurd waits (none w)⟩,
    fun w waits => absurd waits (none w), fun _ w _ waits => absurd waits (none w)⟩

theorem settled_empty {s : Slot} {W : Waiter → Prop} (empty : s.waitList = []) : s.Settled W :=
  fun o st rest w there list _ _ => by rw [waitList_of_obj there, list] at empty; cases empty

theorem Lists.none_of_empty {s : Slot} {W : Waiter → Prop} (lists : s.Lists W) (empty : s.waitList = []) (w : Waiter) : ¬ W w :=
  fun waits => by have mem := (lists.mem w.stamp).2 ⟨w, waits, rfl⟩; rw [empty] at mem; cases mem

/-- Some of the records leave the list, which keeps its order. -/
theorem Lists.leave {s s' : Slot} {W W' : Waiter → Prop} {gone : List Stamp} {o o' : Obj} (lists : s.Lists W)
    (there : s.state.obj = some o) (there' : s'.state.obj = some o') (gen : s'.gen = s.gen)
    (serves : ∀ w, o.part.Serves w → o'.part.Serves w)
    (list : o'.part.waitList = o.part.waitList.filter fun st => decide (st ∉ gone))
    (left : ∀ w, W' w ↔ W w ∧ w.stamp ∉ gone) : s'.Lists W' := by
  rw [← waitList_of_obj there, ← waitList_of_obj there'] at list
  refine ⟨list ▸ lists.nodup.filter _, fun st => ?_, fun w waits => ?_, fun x w is waits => ?_⟩
  · rw [list, List.mem_filter, lists.mem, decide_eq_true_eq]
    constructor
    · rintro ⟨⟨w, waits, rfl⟩, stays⟩
      exact ⟨w, (left w).2 ⟨waits, stays⟩, rfl⟩
    · rintro ⟨w, waits, rfl⟩
      exact ⟨⟨w, ((left w).1 waits).1, rfl⟩, ((left w).1 waits).2⟩
  · rw [gen]; exact lists.gen w ((left w).1 waits).1
  · cases there'.symm.trans is
    exact serves w (lists.serves o w there ((left w).1 waits).1)

/-- A new record joins the list (R52, R53). -/
theorem Lists.join {s s' : Slot} {W W' : Waiter → Prop} {new : Waiter} {o o' : Obj} {before behind : List Stamp}
    (lists : s.Lists W) (there : s.state.obj = some o) (there' : s'.state.obj = some o') (gen : s'.gen = s.gen)
    (serves : ∀ w, o.part.Serves w → o'.part.Serves w) (was : o.part.waitList = before ++ behind)
    (list : o'.part.waitList = before ++ new.stamp :: behind) (fresh : new.stamp ∉ o.part.waitList)
    (named : new.object.gen = s.gen) (served : o.part.Serves new) (waits : ∀ w, W' w ↔ W w ∨ w = new) : s'.Lists W' := by
  have nodup := lists.nodup
  have mem := lists.mem
  rw [waitList_of_obj there, was] at nodup mem
  rw [was] at fresh
  rw [← waitList_of_obj there'] at list
  refine ⟨?_, fun st => ?_, fun w joined => ?_, fun x w is joined => ?_⟩
  · rw [list]; exact List.nodup_middle.2 (List.nodup_cons.2 ⟨fresh, nodup⟩)
  · have either : st ∈ s'.waitList ↔ st ∈ before ++ behind ∨ st = new.stamp := by
      rw [list]; simp only [List.mem_append, List.mem_cons]; tauto
    rw [either, mem]
    constructor
    · rintro (⟨w, waiting, is⟩ | is)
      · exact ⟨w, (waits w).2 (Or.inl waiting), is⟩
      · exact ⟨new, (waits new).2 (Or.inr rfl), is.symm⟩
    · rintro ⟨w, waiting, is⟩
      rcases (waits w).1 waiting with old | rfl
      · exact Or.inl ⟨w, old, is⟩
      · exact Or.inr is.symm
  · rw [gen]
    rcases (waits w).1 joined with old | rfl
    · exact lists.gen w old
    · exact named
  · cases there'.symm.trans is
    rcases (waits w).1 joined with old | rfl
    · exact serves w (lists.serves o w there old)
    · exact serves _ served

theorem Lists.congr {s : Slot} {W W' : Waiter → Prop} (lists : s.Lists W) (same : ∀ w, W' w ↔ W w) : s.Lists W' := by
  rwa [funext fun w => propext (same w)]

theorem Settled.congr {s : Slot} {W W' : Waiter → Prop} (settled : s.Settled W) (same : ∀ w, W' w ↔ W w) : s.Settled W' := by
  rwa [funext fun w => propext (same w)]

end Slot

namespace Hub

/-! ### The records that wait at a slot -/

def Waiting (h : Hub) (w : Waiter) : Prop := w ∈ h.waiters ∧ w.state = .waiting

/-- The WAITING records that name slot `i`, of those that `keep` holds of: during a purge the records of its link still
stand in the pool when they have left the lists (R63). -/
def WaitingAt (h : Hub) (keep : Waiter → Prop) (i : Fin 48) (w : Waiter) : Prop := h.Waiting w ∧ w.object.slot = i ∧ keep w

/-- Every record is to stand in its list: the case outside a purge. -/
def everyone (_ : Waiter) : Prop := True

def ListedAt (h : Hub) (keep : Waiter → Prop) (i : Fin 48) : Prop := (h.slot i).Lists (h.WaitingAt keep i)

def SettledAt (h : Hub) (keep : Waiter → Prop) (i : Fin 48) : Prop := (h.slot i).Settled (h.WaitingAt keep i)

/-- Every WAITING record stands in its list, every list is sound, and no head could be satisfied. -/
structure ListsSound (h : Hub) : Prop where
  range : ∀ w, h.Waiting w → w.object.slot < 48
  listed : ∀ i, h.ListedAt everyone i
  settled : ∀ i, h.SettledAt everyone i

theorem eq_of_stamp {h : Hub} {w w' : Waiter} (distinct : h.StampsDistinct) (mem : w ∈ h.waiters) (mem' : w' ∈ h.waiters)
    (same : w.stamp = w'.stamp) : w = w' :=
  Option.some.inj ((findWaiter_of_mem distinct mem).symm.trans (same ▸ findWaiter_of_mem distinct mem'))

/-- A stamp on a list is that of a record that waits there, and the record is found by it. -/
theorem ListedAt.find {h : Hub} {keep : Waiter → Prop} {i : Fin 48} {st : Stamp} (listed : h.ListedAt keep i)
    (distinct : h.StampsDistinct) (mem : st ∈ (h.slot i).waitList) :
    ∃ w, h.findWaiter st = some w ∧ h.WaitingAt keep i w ∧ w.stamp = st := by
  obtain ⟨w, waits, rfl⟩ := (listed.mem st).1 mem
  exact ⟨w, findWaiter_of_mem distinct waits.1.1, waits, rfl⟩

theorem waitsAt_iff (h : Hub) (i : Fin 48) (w : Waiter) :
    h.WaitsAt i w ↔ h.WaitingAt everyone i w ∧ w.object.gen = (h.slot i).gen := by
  obtain ⟨link, session, tag, ⟨slot, gen⟩, op, amount, priority, deadline, stamp, state, message⟩ := w
  simp only [WaitsAt, WaitingAt, Waiting, everyone, Handle.mk.injEq, and_true, and_assoc]

/-- The invariants of the wait lists, slot by slot. -/
theorem listsSound_iff {h : Hub} (distinct : h.StampsDistinct) : h.ListsSound ↔ h.WaitListsSound ∧ h.NothingOverdue := by
  constructor
  · intro sound
    refine ⟨⟨fun i => (sound.listed i).nodup, fun i st mem => ?_, fun w mem waiting => ?_, fun i o w there waits => ?_⟩,
      fun i o st rest w there list found => ?_⟩
    · obtain ⟨w, waits, is⟩ := ((sound.listed i).mem st).1 mem
      exact ⟨w, (h.waitsAt_iff i w).2 ⟨waits, (sound.listed i).gen w waits⟩, is⟩
    · let i : Fin 48 := ⟨w.object.slot, sound.range w ⟨mem, waiting⟩⟩
      have waits : h.WaitingAt everyone i w := ⟨⟨mem, waiting⟩, rfl, trivial⟩
      exact ⟨i, (h.waitsAt_iff i w).2 ⟨waits, (sound.listed i).gen w waits⟩, ((sound.listed i).mem _).2 ⟨w, waits, rfl⟩⟩
    · have serves := (sound.listed i).serves o w there ((h.waitsAt_iff i w).1 waits).1
      cases part : o.part <;> simpa only [Part.Serves, part] using serves
    · have here : st ∈ (h.slot i).waitList := by rw [Slot.waitList_of_obj there, list]; exact List.mem_cons_self
      obtain ⟨w', found', waits, is⟩ := (sound.listed i).find distinct here
      cases found.symm.trans found'
      have blocks := sound.settled i o st rest w there list waits is
      cases part : o.part <;> simpa only [Part.Blocks, part] using blocks
  · rintro ⟨⟨nodup, onList, listed, serves⟩, overdue⟩
    have waits {i : Fin 48} {w : Waiter} (at_ : h.WaitingAt everyone i w) : h.WaitsAt i w ∧ w.stamp ∈ h.waitListAt i := by
      obtain ⟨⟨mem, waiting⟩, slot, -⟩ := at_
      obtain ⟨j, waits, here⟩ := listed w mem waiting
      have same : j = i := Fin.ext (by rw [← slot, waits.2.2])
      exact same ▸ ⟨waits, here⟩
    refine ⟨fun w ⟨mem, waiting⟩ => ?_, fun i => ⟨nodup i, fun st => ⟨fun mem => ?_, fun ⟨w, at_, is⟩ => is ▸ (waits at_).2⟩,
      fun w at_ => ((h.waitsAt_iff i w).1 (waits at_).1).2, fun o w there at_ => ?_⟩, fun i o st rest w there list at_ is => ?_⟩
    · obtain ⟨i, ⟨-, -, object⟩, -⟩ := listed w mem waiting
      rw [object]; exact i.isLt
    · obtain ⟨w, at_, is⟩ := onList i st mem
      exact ⟨w, ((h.waitsAt_iff i w).1 at_).1, is⟩
    · have served := serves i o w there (waits at_).1
      cases part : o.part <;> simpa only [Part.Serves, part] using served
    · have blocks := overdue i o st rest w there list (is ▸ findWaiter_of_mem distinct at_.1.1)
      cases part : o.part <;> simpa only [Part.Blocks, part] using blocks

/-! ### An operation at one slot -/

/-- From `h` to `h'` no slot but `i` changes, and no record that names another slot begins or ends to wait. -/
structure TouchesOnly (i : Fin 48) (h h' : Hub) : Prop where
  slots : ∀ j, j ≠ i → h'.slot j = h.slot j
  waiting : ∀ w, w.object.slot ≠ i.val → (h'.Waiting w ↔ h.Waiting w)

theorem TouchesOnly.trans {i : Fin 48} {h h' h'' : Hub} (first : TouchesOnly i h h') (second : TouchesOnly i h' h'') :
    TouchesOnly i h h'' :=
  ⟨fun j ne => (second.slots j ne).trans (first.slots j ne), fun w ne => (second.waiting w ne).trans (first.waiting w ne)⟩

theorem TouchesOnly.waitingAt {i j : Fin 48} {h h' : Hub} (touches : TouchesOnly i h h') (ne : j ≠ i) (keep : Waiter → Prop)
    (w : Waiter) : h'.WaitingAt keep j w ↔ h.WaitingAt keep j w := by
  constructor
  · rintro ⟨waiting, slot, kept⟩
    exact ⟨(touches.waiting w (slot ▸ fun is => ne (Fin.ext is))).1 waiting, slot, kept⟩
  · rintro ⟨waiting, slot, kept⟩
    exact ⟨(touches.waiting w (slot ▸ fun is => ne (Fin.ext is))).2 waiting, slot, kept⟩

theorem TouchesOnly.listedAt {i j : Fin 48} {h h' : Hub} {keep : Waiter → Prop} (touches : TouchesOnly i h h') (ne : j ≠ i)
    (listed : h.ListedAt keep j) : h'.ListedAt keep j := by
  rw [ListedAt, touches.slots j ne]; exact Slot.Lists.congr listed (touches.waitingAt ne keep)

theorem TouchesOnly.settledAt {i j : Fin 48} {h h' : Hub} {keep : Waiter → Prop} (touches : TouchesOnly i h h') (ne : j ≠ i)
    (settled : h.SettledAt keep j) : h'.SettledAt keep j := by
  rw [SettledAt, touches.slots j ne]; exact Slot.Settled.congr settled (touches.waitingAt ne keep)

theorem TouchesOnly.range {i : Fin 48} {h h' : Hub} (touches : TouchesOnly i h h')
    (range : ∀ w, h.Waiting w → w.object.slot < 48) (w : Waiter) (waiting : h'.Waiting w) : w.object.slot < 48 := by
  by_cases at_ : w.object.slot = i
  · exact at_ ▸ i.isLt
  · exact range w ((touches.waiting w at_).1 waiting)

/-- An operation at one slot keeps all lists sound if it leaves that slot's list sound. -/
theorem ListsSound.touch {i : Fin 48} {h h' : Hub} (sound : h.ListsSound) (touches : TouchesOnly i h h')
    (listed : h'.ListedAt everyone i) (settled : h'.SettledAt everyone i) : h'.ListsSound := by
  refine ⟨touches.range sound.range, fun j => ?_, fun j => ?_⟩
  · by_cases is : j = i
    · exact is ▸ listed
    · exact touches.listedAt is (sound.listed j)
  · by_cases is : j = i
    · exact is ▸ settled
    · exact touches.settledAt is (sound.settled j)

/-- Slot `i` has got part `p`, and the other slots are as they were. -/
structure PartSet (i : Fin 48) (o : Obj) (p : Part) (h h' : Hub) : Prop where
  others : ∀ j, j ≠ i → h'.slot j = h.slot j
  gen : (h'.slot i).gen = (h.slot i).gen
  there : h'.objAt i = some { o with part := p }

theorem partSet_setPart {h : Hub} {i : Fin 48} {o : Obj} (there : h.objAt i = some o) (p : Part) :
    PartSet i o p h (h.setPart i p) :=
  ⟨fun _ ne => slot_setSlot_other h _ (Ne.symm ne), by rw [setPart, modObj, slot_setSlot_self], objAt_setPart there p⟩

theorem partSet_setLive (h : Hub) (i : Fin 48) (o : Obj) (p : Part) : PartSet i o p h (h.setLive i o p) :=
  ⟨fun _ ne => slot_setSlot_other h _ (Ne.symm ne), by rw [slot_setLive_self], objAt_setLive_self h i o p⟩

theorem PartSet.congr {i : Fin 48} {o : Obj} {p : Part} {h g h' : Hub} (set : PartSet i o p h g) (same : h'.slots = g.slots) :
    PartSet i o p h h' := by
  have slot (j : Fin 48) : h'.slot j = g.slot j := by simp only [Hub.slot, same]
  exact ⟨fun j ne => (slot j).trans (set.others j ne), (congrArg Slot.gen (slot i)).trans set.gen,
    by rw [objAt, slot]; exact set.there⟩

/-- Records leave the list of one slot, whose part changes with it: the general form of a grant, a delivery, an expiry, a
CANCEL; with no record that leaves, of a change of the part alone. -/
theorem leave {i : Fin 48} {o : Obj} {p : Part} {h h' : Hub} {keep : Waiter → Prop} (gone : List Stamp)
    (distinct : h.StampsDistinct) (listed : h.ListedAt keep i) (there : h.objAt i = some o) (set : PartSet i o p h h')
    (serves : ∀ w, o.part.Serves w → p.Serves w) (here : ∀ st ∈ gone, st ∈ o.part.waitList)
    (list : p.waitList = o.part.waitList.filter fun st => decide (st ∉ gone))
    (waiting : ∀ w, h'.Waiting w ↔ h.Waiting w ∧ w.stamp ∉ gone) : h'.ListedAt keep i ∧ TouchesOnly i h h' := by
  refine ⟨Slot.Lists.leave listed there set.there set.gen serves list fun w => ?_, set.others, fun w ne => ?_⟩
  · simp only [WaitingAt, waiting]; tauto
  · rw [waiting]
    refine ⟨And.left, fun waits => ⟨waits, fun mem => ne ?_⟩⟩
    have mem' := here _ mem
    rw [← Slot.waitList_of_obj there] at mem'
    obtain ⟨w', -, waits', same⟩ := listed.find distinct mem'
    rw [← eq_of_stamp distinct waits'.1.1 waits.1 same]
    exact waits'.2.1

/-- A change of the part that leaves the list and the records. -/
theorem restate {i : Fin 48} {o : Obj} {p : Part} {h h' : Hub} {keep : Waiter → Prop} (listed : h.ListedAt keep i)
    (there : h.objAt i = some o) (set : PartSet i o p h h') (serves : ∀ w, o.part.Serves w → p.Serves w)
    (list : p.waitList = o.part.waitList) (waiters : h'.waiters = h.waiters) :
    h'.ListedAt keep i ∧ TouchesOnly i h h' := by
  have waiting (w : Waiter) : h'.Waiting w ↔ h.Waiting w := by simp only [Waiting, waiters]
  refine ⟨Slot.Lists.leave (gone := []) listed there set.there set.gen serves (by simp [list]) fun w => ?_, set.others,
    fun w _ => waiting w⟩
  simp [WaitingAt, waiting]

/-- The slot is left without a list and the records on its list no longer wait: the general form of a DELETE. -/
theorem vacate {i : Fin 48} {h h' : Hub} {keep : Waiter → Prop} (distinct : h.StampsDistinct) (listed : h.ListedAt keep i)
    (others : ∀ j, j ≠ i → h'.slot j = h.slot j) (empty : (h'.slot i).waitList = [])
    (waiting : ∀ w, h'.Waiting w ↔ h.Waiting w ∧ w.stamp ∉ (h.slot i).waitList) :
    h'.ListedAt keep i ∧ h'.SettledAt keep i ∧ TouchesOnly i h h' := by
  refine ⟨Slot.lists_empty empty fun w ⟨waits, slot, kept⟩ => ?_, Slot.settled_empty empty, others, fun w ne => ?_⟩
  · obtain ⟨was, off⟩ := (waiting w).1 waits
    exact off ((listed.mem _).2 ⟨w, ⟨was, slot, kept⟩, rfl⟩)
  · rw [waiting]
    refine ⟨And.left, fun waits => ⟨waits, fun mem => ne ?_⟩⟩
    obtain ⟨w', -, waits', same⟩ := listed.find distinct mem
    rw [← eq_of_stamp distinct waits'.1.1 waits.1 same]
    exact waits'.2.1

/-! ### Records that stop waiting -/

/-- A record that gets another state than WAITING waits no more. -/
theorem waiting_map {h h' : Hub} {st : Stamp} {f : Waiter → Waiter} (ends : ∀ w, (f w).state ≠ .waiting)
    (waiters : h'.waiters = h.waiters.map fun w => if w.stamp = st then f w else w) (w : Waiter) :
    h'.Waiting w ↔ h.Waiting w ∧ w.stamp ∉ [st] := by
  simp only [Waiting, waiters, List.mem_map, List.mem_singleton]
  constructor
  · rintro ⟨⟨x, mem, rfl⟩, state⟩
    by_cases is : x.stamp = st
    · rw [if_pos is] at state
      exact absurd state (ends x)
    · rw [if_neg is] at state ⊢
      exact ⟨⟨mem, state⟩, is⟩
  · rintro ⟨⟨mem, state⟩, ne⟩
    exact ⟨⟨w, mem, if_neg ne⟩, state⟩

theorem waiting_endWait (h : Hub) (w : Waiter) {st : WaiterState} (msg : Option Half) (ended : st ≠ .waiting) (x : Waiter) :
    (h.endWait w st msg).Waiting x ↔ h.Waiting x ∧ x.stamp ∉ [w.stamp] :=
  waiting_map (f := fun x => { x with state := st, message := msg }) (fun _ => ended) (by rw [endWait_spec]) x

theorem waiting_grant (h : Hub) (w x : Waiter) : (h.grant w).Waiting x ↔ h.Waiting x ∧ x.stamp ∉ [w.stamp] :=
  h.waiting_endWait w (st := .granted) none (by decide) x

theorem waiting_deliver (h : Hub) (q : Queue) (w : Waiter) (m : Message) (x : Waiter) :
    (h.deliver q w m).Waiting x ↔ h.Waiting x ∧ x.stamp ∉ [w.stamp] :=
  h.waiting_endWait w (st := .granted) (some m.seq) (by decide) x

theorem deliver_slots (h : Hub) (q : Queue) (w : Waiter) (m : Message) : (h.deliver q w m).slots = h.slots :=
  endWait_slots _ _ _ _

theorem waiting_abandons (sts : List Stamp) (h : Hub) (x : Waiter) :
    (sts.foldl abandon h).Waiting x ↔ h.Waiting x ∧ x.stamp ∉ sts := by
  induction sts generalizing h with
  | nil => simp
  | cons st sts ih =>
    have one : (h.abandon st).Waiting x ↔ h.Waiting x ∧ x.stamp ≠ st := by
      unfold abandon
      split
      · rename_i w found
        rw [← (findWaiter_some found).2]
        have ended := h.waiting_endWait w (st := .abandoned) none (by decide) x
        rw [List.mem_singleton] at ended
        simp only [Waiting, notice_waiters] at ended ⊢
        exact ended
      · rename_i none
        exact ⟨fun waits => ⟨waits, findWaiter_none none x waits.1⟩, And.left⟩
    rw [List.foldl_cons, ih, one, List.mem_cons, not_or, and_assoc]

/-- The head of a list leaves it. -/
theorem tail_eq_filter {st : Stamp} {rest : List Stamp} (nodup : (st :: rest).Nodup) :
    rest = (st :: rest).filter fun x => decide (x ∉ [st]) := by
  have off : ∀ x ∈ rest, decide (x ∉ [st]) = true := fun x mem => by
    simpa using fun is : x = st => (List.nodup_cons.1 nodup).1 (is ▸ mem)
  rw [List.filter_cons_of_neg (by simp), List.filter_eq_self.2 off]

/-- The head waiter of a slot is served: the part gives what it asks for, the list loses its head, and its record stops waiting. -/
theorem serve_head {i : Fin 48} {o : Obj} {p : Part} {st : Stamp} {rest : List Stamp} {h h' : Hub} {keep : Waiter → Prop}
    (distinct : h.StampsDistinct) (listed : h.ListedAt keep i) (there : h.objAt i = some o)
    (head : o.part.waitList = st :: rest) (set : PartSet i o p h h') (serves : ∀ w, o.part.Serves w → p.Serves w)
    (left : p.waitList = rest) (waiting : ∀ w, h'.Waiting w ↔ h.Waiting w ∧ w.stamp ∉ [st]) :
    h'.ListedAt keep i ∧ TouchesOnly i h h' := by
  have nodup := listed.nodup
  rw [Slot.waitList_of_obj there, head] at nodup
  refine leave [st] distinct listed there set serves (fun x mem => ?_) ?_ waiting
  · rw [List.mem_singleton.1 mem, head]; exact List.mem_cons_self
  · rw [left, head]; exact tail_eq_filter nodup

/-! ### The grant pass and the hand-out leave the head blocked -/

theorem blocks_of_not_granted {w : Waiter} {p : Part} (semaphore : ∀ q, p ≠ .queue q) (not : grantedPart w p = none) :
    p.Blocks w := by
  cases p with
  | resource r => exact Nat.lt_of_not_le fun le => by rw [grantedPart, if_pos le] at not; cases not
  | signal g => exact Nat.eq_zero_of_not_pos fun pos => by rw [grantedPart, if_pos (show 1 ≤ g.count from pos)] at not; cases not
  | queue q => exact absurd rfl (semaphore q)

/-- The grant pass over the list of a semaphore whose list is sound (R27). -/
theorem grantList_sound {i : Fin 48} {keep : Waiter → Prop} (sts : List Stamp) : ∀ {h : Hub} {o : Obj}, h.StampsDistinct →
    h.ListedAt keep i → h.objAt i = some o → o.part.waitList = sts → (∀ q, o.part ≠ .queue q) →
      (grantList i sts h).ListedAt keep i ∧ (grantList i sts h).SettledAt keep i ∧ TouchesOnly i h (grantList i sts h) := by
  induction sts with
  | nil =>
    intro h o _ listed there list _
    exact ⟨listed, Slot.settled_empty ((Slot.waitList_of_obj there).trans list), fun _ _ => rfl, fun _ _ => Iff.rfl⟩
  | cons st rest ih =>
    intro h o distinct listed there list semaphore
    obtain ⟨w, found, waits, is⟩ := listed.find distinct (st := st)
      (by rw [Slot.waitList_of_obj there, list]; exact List.mem_cons_self)
    rcases grants : grantedPart w o.part with _ | p
    · have stop : grantList i (st :: rest) h = h := by rw [grantList, grantHead_eq there found, grants]; rfl
      rw [stop]
      refine ⟨listed, fun o' st' rest' w' there' list' waits' is' => ?_, fun _ _ => rfl, fun _ _ => Iff.rfl⟩
      cases there.symm.trans there'
      have same : w' = w := eq_of_stamp distinct waits'.1.1 waits.1.1
        (is'.trans ((List.cons.inj (list'.symm.trans list)).1.trans is.symm))
      exact same ▸ blocks_of_not_granted semaphore grants
    · have step : grantList i (st :: rest) h = grantList i rest ((h.setPart i p).grant w) := by
        rw [grantList, grantHead_eq there found, grants]; rfl
      have keeps := Part.keeps_granted grants
      have granted := grantHead_keeps (h := h) (i := i) (st := st) (by rw [grantHead_eq there found, grants]; rfl)
      have set : PartSet i o p h ((h.setPart i p).grant w) := (partSet_setPart there p).congr (grant_slots _ w)
      have left : p.waitList = rest := by rw [waitList_grantedPart grants, list]; rfl
      obtain ⟨listed', touches⟩ := serve_head distinct listed there list set keeps.serves left fun x => by
        rw [← is]; exact waiting_grant (h.setPart i p) w x
      obtain ⟨listed'', settled, touches'⟩ := ih (granted.stamps distinct) listed' set.there left fun q queue => by
        obtain ⟨q', was, -⟩ := keeps.queue q queue
        exact semaphore q' was
      rw [step]
      exact ⟨listed'', settled, touches.trans touches'⟩

/-- The grant pass at a slot whose list is sound: it leaves no head of a semaphore that could be satisfied, and a queue as it is. -/
theorem grantPass_sound {i : Fin 48} {keep : Waiter → Prop} {h : Hub} {o : Obj} (distinct : h.StampsDistinct)
    (listed : h.ListedAt keep i) (there : h.objAt i = some o) (queue : ∀ q, o.part = .queue q → h.SettledAt keep i) :
    (h.grantPass i).ListedAt keep i ∧ (h.grantPass i).SettledAt keep i ∧ TouchesOnly i h (h.grantPass i) := by
  by_cases is : ∃ q, o.part = .queue q
  · obtain ⟨q, part⟩ := is
    rw [grantPass_of_queue there part]
    exact ⟨listed, queue q part, fun _ _ => rfl, fun _ _ => Iff.rfl⟩
  · rw [grantPass, waitListAt_of_objAt there]
    exact grantList_sound _ distinct listed there rfl fun q part => is ⟨q, part⟩

/-- The hand-out over the list of a queue whose list is sound (R89). -/
theorem handOut_sound {i : Fin 48} {keep : Waiter → Prop} (sts : List Stamp) : ∀ {h : Hub} {o : Obj} {q : Queue},
    h.StampsDistinct → h.ListedAt keep i → h.objAt i = some o → o.part = .queue q → q.waitList = sts →
      (handOut i sts h).ListedAt keep i ∧ (handOut i sts h).SettledAt keep i ∧ TouchesOnly i h (handOut i sts h) := by
  induction sts with
  | nil =>
    intro h o q _ listed there part list
    have settled : h.SettledAt keep i := Slot.settled_empty ((Slot.waitList_of_obj there).trans (by rw [part]; exact list))
    exact ⟨listed, settled, fun _ _ => rfl, fun _ _ => Iff.rfl⟩
  | cons st rest ih =>
    intro h o q distinct listed there part list
    have head : o.part.waitList = st :: rest := by rw [part]; exact list
    obtain ⟨w, found, waits, is⟩ := listed.find distinct (st := st)
      (by rw [Slot.waitList_of_obj there, head]; exact List.mem_cons_self)
    rcases handOut_cons i st rest h with ⟨stop, none⟩ | ⟨o', q', w', m, ms, there', part', found', claims, step⟩
    · rw [stop]
      refine ⟨listed, fun o' st' rest' w' there' _ _ _ => ?_, fun _ _ => rfl, fun _ _ => Iff.rfl⟩
      cases there.symm.trans there'
      rw [part]; exact none o q w there part found
    · cases there.symm.trans there'
      cases part.symm.trans part'
      cases found.symm.trans found'
      have keeps : o.part.Keeps (.queue { q with messages := ms, waitList := q.waitList.tail }) :=
        part ▸ Part.keeps_queue (Queue.keeps_claimed _ claims)
      have delivered := (setPart_keeps there keeps fun drained =>
        absurd (part ▸ drained) (not_drained_of_ready (readyCount_pos_of_claim claims))).trans
        (deliver_keeps _ { q with messages := ms, waitList := q.waitList.tail } w m)
      have set := (partSet_setPart there (.queue { q with messages := ms, waitList := q.waitList.tail })).congr
        (h' := (h.setPart i (.queue { q with messages := ms, waitList := q.waitList.tail })).deliver
          { q with messages := ms, waitList := q.waitList.tail } w m) (deliver_slots _ _ _ _)
      have left : q.waitList.tail = rest := by rw [list]; rfl
      obtain ⟨listed', touches⟩ := serve_head distinct listed there head set keeps.serves left fun x => by
        rw [← is]; exact waiting_deliver _ _ w m x
      obtain ⟨listed'', settled, touches'⟩ := ih (delivered.stamps distinct) listed' set.there rfl left
      rw [step]
      exact ⟨listed'', settled, touches.trans touches'⟩

end Hub
end Sys2Proof.Machine
end

section
/-! What each kind of operation of the engine does to the wait lists: a change of a part, a waiter that joins, leaves or is served,
an object that goes or comes; a companion signalling; a report. -/

namespace Sys2Proof.Machine

/-- A queue some of whose messages become SPENT, with reclamation, has no message READY that was not (R75). -/
theorem Queue.readyCount_spend (q : Queue) (spent : Message → Bool) :
    ({ q with messages := q.messages.map fun m => if spent m then { m with state := .spent } else m } : Queue).reclaim.readyCount
      ≤ q.readyCount := by
  refine Nat.le_trans (List.Sublist.countP_le (List.dropWhile_sublist _)) ?_
  rw [List.countP_map]
  exact List.countP_mono_left fun m _ ready => by
    simp only [Function.comp, Message.isReady, beq_iff_eq] at ready ⊢
    exact ready_of_spent ready

theorem Part.blocks_queue_of_le {q q' : Queue} (le : q'.readyCount ≤ q.readyCount) (w : Waiter) (blocks : (queue q).Blocks w) :
    (queue q').Blocks w := Nat.le_zero.1 (Nat.le_trans le (Nat.le_of_eq blocks))

theorem Part.blocks_setWaitList (p : Part) (ws : List Stamp) (w : Waiter) : (p.setWaitList ws).Blocks w ↔ p.Blocks w := by
  cases p <;> exact Iff.rfl

namespace Hub

/-! ### The part of a slot -/

theorem setWaitListAt_eq {h : Hub} {i : Fin 48} {o : Obj} (there : h.objAt i = some o) (ws : List Stamp) :
    h.setWaitListAt i ws = h.setPart i (o.part.setWaitList ws) := by
  unfold objAt at there
  unfold setWaitListAt setPart modObj
  cases state : (h.slot i).state <;> rw [state] at there <;> cases there <;> rfl

theorem partSet_answered (h : Hub) (i : Fin 48) (o : Obj) (p : Part) (l : Link) (rq : Request) (code : ResultCode)
    (body : List Byte) (msg : Option MessageRef) : PartSet i o p h ((h.setLive i o p).reply l rq code body msg) :=
  (partSet_setLive h i o p).congr (reply_slots _ _ _ _ _ _)

theorem slot_of_slots {h h' : Hub} (slots : h'.slots = h.slots) (i : Fin 48) : h'.slot i = h.slot i := by
  simp only [slot, slots]

/-- The hubs have the same slots and the same records wait in them. -/
theorem ListsSound.of_same {h h' : Hub} (sound : h.ListsSound) (slots : h'.slots = h.slots)
    (waiting : ∀ w, h'.Waiting w ↔ h.Waiting w) : h'.ListsSound where
  range := fun w waits => sound.range w ((waiting w).1 waits)
  listed := fun i => by
    rw [ListedAt, slot_of_slots slots]
    exact Slot.Lists.congr (sound.listed i) fun w => by rw [WaitingAt, WaitingAt, waiting]
  settled := fun i => by
    rw [SettledAt, slot_of_slots slots]
    exact Slot.Settled.congr (sound.settled i) fun w => by rw [WaitingAt, WaitingAt, waiting]

theorem waiting_of_waiters {h h' : Hub} (waiters : h'.waiters = h.waiters) (w : Waiter) : h'.Waiting w ↔ h.Waiting w := by
  rw [Waiting, Waiting, waiters]

theorem ListsSound.of_records {h h' : Hub} (sound : h.ListsSound) (slots : h'.slots = h.slots)
    (waiters : h'.waiters = h.waiters) : h'.ListsSound := sound.of_same slots (waiting_of_waiters waiters)

theorem ListsSound.reply {h : Hub} (sound : h.ListsSound) (l : Link) (rq : Request) (code : ResultCode) (body : List Byte)
    (msg : Option MessageRef) : (h.reply l rq code body msg).ListsSound :=
  sound.of_records (reply_slots _ _ _ _ _ _) (reply_waiters _ _ _ _ _ _)

/-- A WAITING record names the object on whose list it stands. -/
theorem ListsSound.names {h : Hub} {w : Waiter} (sound : h.ListsSound) (waits : h.Waiting w) :
    ∃ i o, h.slotOf w.object = some i ∧ h.objAt i = some o ∧ w.stamp ∈ o.part.waitList := by
  have lt := sound.range w waits
  let i : Fin 48 := ⟨w.object.slot, lt⟩
  have here : h.WaitingAt everyone i w := ⟨waits, rfl, trivial⟩
  have mem := ((sound.listed i).mem w.stamp).2 ⟨w, here, rfl⟩
  have gen := (sound.listed i).gen w here
  rcases there : (h.slot i).state.obj with _ | o
  · rw [Slot.waitList, there] at mem; cases mem
  · rw [Slot.waitList_of_obj there] at mem
    refine ⟨i, o, ?_, there, mem⟩
    rw [slotOf, dif_pos lt]
    exact if_pos ⟨gen.symm, fun free => by rw [free] at there; cases there⟩

/-- A change of a part that leaves the list and the records, then the grant pass (R31, R32, R35, R36). -/
theorem ListsSound.restate_pass {i : Fin 48} {o : Obj} {p : Part} {h h' : Hub} (sound : h.ListsSound)
    (distinct : h'.StampsDistinct) (there : h.objAt i = some o) (set : PartSet i o p h h') (keeps : o.part.Keeps p)
    (list : p.waitList = o.part.waitList) (waiters : h'.waiters = h.waiters) (semaphore : ∀ q, p ≠ .queue q) :
    (h'.grantPass i).ListsSound := by
  obtain ⟨listed, touches⟩ := restate (sound.listed i) there set keeps.serves list waiters
  obtain ⟨listed, settled, passes⟩ := grantPass_sound distinct listed set.there fun q is => absurd is (semaphore q)
  exact sound.touch (touches.trans passes) listed settled

/-- A change of a part after which a waiting head is as blocked as before. -/
theorem ListsSound.restate_blocked {i : Fin 48} {o : Obj} {p : Part} {h h' : Hub} (sound : h.ListsSound)
    (there : h.objAt i = some o) (set : PartSet i o p h h') (keeps : o.part.Keeps p) (list : p.waitList = o.part.waitList)
    (waiters : h'.waiters = h.waiters)
    (blocks : o.part.waitList ≠ [] → ∀ w, o.part.Serves w → o.part.Blocks w → p.Blocks w) : h'.ListsSound := by
  obtain ⟨listed, touches⟩ := restate (sound.listed i) there set keeps.serves list waiters
  refine sound.touch touches listed fun o' st rest w there' head waits is => ?_
  cases there'.symm.trans set.there
  have head : o.part.waitList = st :: rest := list.symm.trans head
  have before : h.WaitingAt everyone i w :=
    ⟨(waiting_of_waiters waiters w).1 waits.1, waits.2⟩
  exact blocks (by rw [head]; exact List.cons_ne_nil _ _) w ((sound.listed i).serves o w there before)
    (sound.settled i o st rest w there head before is)

/-! ### Companion signalling (R36) -/

theorem signalCompanion_sound {h : Hub} (distinct : h.StampsDistinct) (sound : h.ListsSound) (hd : Handle) :
    (h.signalCompanion hd).ListsSound := by
  rcases h.signalCompanion_cases hd with same | ⟨i, o, g, -, there, part, below, eq⟩
  · rw [same]; exact sound
  · have keeps : o.part.Keeps (.signal { g with count := g.count + 1 }) := part ▸ Part.keeps_count below
    rw [eq]
    exact sound.restate_pass (h' := h.setPart i _) distinct there (partSet_setPart there _) keeps (by rw [part]; rfl) rfl
      fun _ is => nomatch is

theorem signalCompanions_sound (hds : List Handle) : ∀ {h : Hub}, h.StampsDistinct → h.ListsSound →
    (hds.foldl signalCompanion h).ListsSound := by
  induction hds with
  | nil => exact fun _ sound => sound
  | cons hd hds ih =>
    exact fun {h} distinct sound => ih ((h.signalCompanion_keeps hd).stamps distinct) (signalCompanion_sound distinct sound hd)

/-! ### A new waiter (R48, R52, R53) -/

/-- No record has the next stamp yet. -/
theorem ListsSound.fresh {h : Hub} (sound : h.ListsSound) (distinct : h.StampsDistinct) (i : Fin 48) :
    h.stampCounter + 1 ∉ (h.slot i).waitList := fun mem => by
  obtain ⟨w, -, waits, stamp⟩ := (sound.listed i).find distinct mem
  exact Nat.not_succ_le_self h.stampCounter (Nat.le_trans (Nat.le_of_eq stamp.symm) (distinct.2 w waits.1.1).2)

theorem waiting_append {h h' : Hub} {new : Waiter} (state : new.state = .waiting) (waiters : h'.waiters = h.waiters ++ [new])
    (w : Waiter) : h'.Waiting w ↔ h.Waiting w ∨ w = new := by
  simp only [Waiting, waiters, List.mem_append, List.mem_singleton]
  constructor
  · rintro ⟨old | is, waits⟩
    · exact Or.inl ⟨old, waits⟩
    · exact Or.inr is
  · rintro (⟨old, waits⟩ | rfl)
    · exact ⟨Or.inl old, waits⟩
    · exact ⟨Or.inr rfl, state⟩

/-- A record that is new to the pool stands on the list of the object that it names. -/
theorem ListsSound.joined {i : Fin 48} {o : Obj} {h h' : Hub} {new : Waiter} {before behind : List Stamp} (sound : h.ListsSound)
    (there : h.objAt i = some o) (was : o.part.waitList = before ++ behind)
    (set : PartSet i o (o.part.setWaitList (before ++ new.stamp :: behind)) h h') (fresh : new.stamp ∉ (h.slot i).waitList)
    (slot : new.object.slot = i) (gen : new.object.gen = (h.slot i).gen) (serves : o.part.Serves new)
    (waiting : ∀ w, h'.Waiting w ↔ h.Waiting w ∨ w = new) : h'.ListedAt everyone i ∧ TouchesOnly i h h' := by
  refine ⟨Slot.Lists.join (sound.listed i) there set.there set.gen (o.part.keeps_setWaitList _).serves was
    (o.part.waitList_setWaitList _) (Slot.waitList_of_obj there ▸ fresh) gen serves fun w => ?_, set.others, fun w ne => ?_⟩
  · simp only [WaitingAt, waiting, everyone, and_true]
    constructor
    · rintro ⟨old | is, slot⟩
      · exact Or.inl ⟨old, slot⟩
      · exact Or.inr is
    · rintro (⟨old, slot⟩ | rfl)
      · exact ⟨Or.inl old, slot⟩
      · exact ⟨Or.inr rfl, slot⟩
  · rw [waiting]
    exact ⟨fun waits => waits.resolve_right fun is => ne (is ▸ slot), Or.inl⟩

/-- A slot that a new waiter joins is settled, if the new waiter is blocked where it stands at the head. -/
theorem ListsSound.joined_settled {i : Fin 48} {o : Obj} {h h' : Hub} {new : Waiter} {before behind : List Stamp}
    (sound : h.ListsSound) (there : h.objAt i = some o) (was : o.part.waitList = before ++ behind)
    (set : PartSet i o (o.part.setWaitList (before ++ new.stamp :: behind)) h h') (fresh : new.stamp ∉ (h.slot i).waitList)
    (waiting : ∀ w, h'.Waiting w ↔ h.Waiting w ∨ w = new)
    (blocked : (h'.waitListAt i).head? = some new.stamp → o.part.Blocks new) : h'.SettledAt everyone i := by
  intro o' st rest w there' head waits stamp
  cases there'.symm.trans set.there
  rw [waitListAt_of_objAt set.there, head] at blocked
  rw [Part.blocks_setWaitList]
  rcases (waiting w).1 waits.1 with old | rfl
  · have place : h.WaitingAt everyone i w := ⟨old, waits.2⟩
    have stands := ((sound.listed i).mem w.stamp).2 ⟨w, place, rfl⟩
    rw [Part.waitList_setWaitList] at head
    cases before with
    | nil => exact absurd (by rw [(List.cons.inj head).1, ← stamp]; exact stands) fresh
    | cons x xs =>
      refine sound.settled i o st (xs ++ behind) w there ?_ place stamp
      rw [was, ← (List.cons.inj head).1]
      rfl
  · exact blocked (by rw [← stamp]; rfl)

/-- A new waiter on the object of a slot. -/
theorem makeWaiter_sound {h : Hub} (ticks : Nat) {l : Link} {rq : Request} {hd : Handle} {i : Fin 48} {o : Obj}
    (d : Discipline) {op : WaitOp} {amount priority : Nat} (timeout : Nat) (distinct : h.StampsDistinct) (sound : h.ListsSound)
    (names : h.slotOf hd = some i) (there : h.objAt i = some o)
    (serves : o.part.Serves (h.newWaiter l rq hd op amount priority timeout)) :
    let h' := h.makeWaiter ticks l rq hd i d op amount priority timeout
    h'.ListedAt everyone i ∧ TouchesOnly i h h' ∧ (∃ ws, h'.objAt i = some { o with part := o.part.setWaitList ws }) ∧
      (((h'.waitListAt i).head? = some (h.stampCounter + 1) → o.part.Blocks (h.newWaiter l rq hd op amount priority timeout)) →
        h'.ListsSound) := by
  intro h'
  obtain ⟨slots, waiters⟩ : h'.slots = _ ∧ h'.waiters = _ := h.makeWaiter_records ticks l rq hd i d op amount priority timeout
  clear_value h'
  obtain ⟨before, behind, was, is, -⟩ := h.insertWaiter_spec d priority (h.stampCounter + 1) (h.waitListAt i)
  rw [is, setWaitListAt_eq there] at slots
  rw [waitListAt_of_objAt there] at was
  have set := (partSet_setPart there (o.part.setWaitList (before ++ (h.stampCounter + 1) :: behind))).congr slots
  have object := (slotOf_some names).1
  have waiting := waiting_append (new := h.newWaiter l rq hd op amount priority timeout) rfl waiters
  obtain ⟨listed, touches⟩ := sound.joined (new := h.newWaiter l rq hd op amount priority timeout) there was set
    (sound.fresh distinct i) (congrArg Handle.slot object) (congrArg Handle.gen object) serves waiting
  exact ⟨listed, touches, ⟨_, set.there⟩, fun blocked => sound.touch touches listed
    (sound.joined_settled there was set (sound.fresh distinct i) waiting blocked)⟩

/-! ### A record that leaves its list (R37, R51, R56, R59) -/

/-- A WAITING record leaves its list; the grant pass follows if it was the head. -/
theorem ListsSound.quit {h h' : Hub} {w : Waiter} {i : Fin 48} {o : Obj} (sound : h.ListsSound) (distinct : h.StampsDistinct)
    (distinct' : h'.StampsDistinct) (waits : h.Waiting w) (names : h.slotOf w.object = some i) (there : h.objAt i = some o)
    (mem : w.stamp ∈ o.part.waitList)
    (slots : h'.slots = (h.setWaitListAt i ((h.waitListAt i).filter fun x => decide (x ≠ w.stamp))).slots)
    (waiting : ∀ x, h'.Waiting x ↔ h.Waiting x ∧ x.stamp ∉ [w.stamp]) :
    (if (h.waitListAt i).head? = some w.stamp then h'.grantPass i else h').ListsSound := by
  rw [waitListAt_of_objAt there] at slots ⊢
  rw [setWaitListAt_eq there] at slots
  have set := (partSet_setPart there _).congr slots
  have list : (o.part.setWaitList (o.part.waitList.filter fun x => decide (x ≠ w.stamp))).waitList =
      o.part.waitList.filter fun x => decide (x ≠ w.stamp) := o.part.waitList_setWaitList _
  obtain ⟨listed, touches⟩ := leave [w.stamp] distinct (sound.listed i) there set (o.part.keeps_setWaitList _).serves
    (fun st is => by rw [List.mem_singleton.1 is]; exact mem) (by rw [list]; simp only [List.mem_singleton, ne_eq]) waiting
  have place : h.WaitingAt everyone i w := ⟨waits, congrArg Handle.slot (slotOf_some names).1, trivial⟩
  have before {x : Waiter} (waits' : h'.WaitingAt everyone i x) : h.WaitingAt everyone i x :=
    ⟨((waiting x).1 waits'.1).1, waits'.2⟩
  split
  · rename_i head
    obtain ⟨rest, head⟩ := List.head?_eq_some_iff.1 head
    obtain ⟨listed, settled, passes⟩ := grantPass_sound distinct' listed set.there fun q queue => by
      intro o' st rest' x there' _ _ _
      cases there'.symm.trans set.there
      have blocks := sound.settled i o w.stamp rest w there head place rfl
      cases part : o.part with
      | queue q => rw [part] at blocks; exact blocks
      | resource r | signal g => rw [part] at queue; cases queue
    exact sound.touch (touches.trans passes) listed settled
  · rename_i notHead
    refine sound.touch touches listed fun o' st rest x there' head' waits' stamp => ?_
    cases there'.symm.trans set.there
    rw [Part.blocks_setWaitList]
    cases old : o.part.waitList with
    | nil => rw [old] at mem; cases mem
    | cons y ys =>
      have ne : y ≠ w.stamp := fun is => notHead (by rw [old, is]; rfl)
      rw [list, old, List.filter_cons_of_pos (by simpa using ne)] at head'
      exact sound.settled i o st ys x there (old.trans (by rw [(List.cons.inj head').1])) (before waits') stamp

/-! ### Objects that go and come (R12, R14, R17, R85) -/

/-- A slot changes and has no list then; the records on its list no longer wait. -/
theorem ListsSound.vacated {i : Fin 48} {h h' : Hub} (sound : h.ListsSound) (distinct : h.StampsDistinct)
    (others : ∀ j, j ≠ i → h'.slot j = h.slot j) (empty : (h'.slot i).waitList = [])
    (waiting : ∀ w, h'.Waiting w ↔ h.Waiting w ∧ w.stamp ∉ (h.slot i).waitList) : h'.ListsSound := by
  obtain ⟨listed, settled, touches⟩ := vacate distinct (sound.listed i) others empty waiting
  exact sound.touch touches listed settled

theorem waitList_freed (s : Slot) : s.freed.waitList = [] := rfl

/-- A slot without waiters gets another state without waiters. -/
theorem ListsSound.replaced {i : Fin 48} {h : Hub} {sl : Slot} (sound : h.ListsSound) (distinct : h.StampsDistinct)
    (alone : (h.slot i).waitList = []) (empty : sl.waitList = []) : (h.setSlot i sl).ListsSound :=
  sound.vacated distinct (fun _ ne => slot_setSlot_other h sl (Ne.symm ne)) (by rw [slot_setSlot_self]; exact empty)
    fun w => by rw [alone]; simp [Waiting, setSlot]

/-- Messages become SPENT and reclamation runs (R75, R82). -/
theorem setReclaimed_sound {h : Hub} {i : Fin 48} {o : Obj} {q : Queue} (distinct : h.StampsDistinct) (queues : h.QueuesSound)
    (sound : h.ListsSound) (there : h.objAt i = some o) (part : o.part = .queue q) (spent : Message → Bool) :
    (h.setReclaimed i { q with
      messages := q.messages.map fun m => if spent m then { m with state := .spent } else m }).ListsSound := by
  by_cases freed : (h.slot i).state = .draining o ∧ ({ q with
      messages := q.messages.map fun m => if spent m then { m with state := .spent } else m } : Queue).reclaim.messages = []
  · rw [setReclaimed_eq there, if_pos freed]
    obtain ⟨-, -, drained⟩ := queues
    obtain ⟨q', part', alone, -⟩ := drained i o freed.1
    exact sound.replaced distinct (by rw [Slot.waitList_of_obj there, part']; exact alone) (waitList_freed _)
  · rw [setReclaimed_eq there, if_neg freed]
    exact sound.restate_blocked there (partSet_setPart there _)
      (part ▸ Part.keeps_queue (q.keeps_reclaimed (layout_spend spent .spent) q.waitList)) (by rw [part]; rfl) rfl
      fun _ w _ blocks => Part.blocks_queue_of_le (q.readyCount_spend spent) w (part ▸ blocks)

/-! ### Reports and expiry items -/

theorem freeWaiter_sound {h : Hub} (distinct : h.StampsDistinct) (sound : h.ListsSound) (st : Stamp) :
    (h.freeWaiter st).ListsSound := by
  rw [freeWaiter_eq distinct]
  refine sound.of_same rfl fun w => ?_
  simp only [Waiting, List.mem_filter, Bool.or_eq_true, decide_eq_true_eq]
  tauto

theorem spendMessage_sound {h : Hub} (distinct : h.StampsDistinct) (queues : h.QueuesSound) (sound : h.ListsSound) (l : Link)
    (ref : MessageRef) (session : Nat) (c : Carrier) : (h.spendMessage l ref session c).ListsSound := by
  rcases h.spendMessage_cases l ref session c with same | ⟨i, o, q, -, there, part, eq⟩
  · rw [same]; exact sound
  · rw [eq]; exact setReclaimed_sound distinct queues sound there part _

theorem expire_sound {h : Hub} (distinct : h.StampsDistinct) (sound : h.ListsSound) (st : Stamp) : (h.expire st).ListsSound := by
  by_cases waits : ∃ w, h.Waiting w ∧ w.stamp = st
  · obtain ⟨w, waits, rfl⟩ := waits
    obtain ⟨i, o, names, there, mem⟩ := sound.names waits
    rw [expire_eq distinct waits.1 waits.2 names]
    refine sound.quit distinct ?_ waits names there mem (notice_slots _ _ _ _ _)
      (waiting_map (f := fun x => { x with state := .expired }) (fun _ => by simp) (notice_waiters _ _ _ _ _))
    exact ((h.leaveWaitList_keeps i w.stamp).trans (expireRecord_keeps _ w)).stamps distinct
  · rw [expire_dropped fun w mem is waiting => waits ⟨w, ⟨mem, waiting⟩, is⟩]
    exact sound

end Hub
end Sys2Proof.Machine
end

section
/-! The requests, each by what it does when no check refuses it, leave every WAITING record in its list and no head overdue. -/

namespace Sys2Proof.Machine
namespace Hub

/-! ### What passing the checks says -/

theorem acquire_blocked {h : Hub} {hd : Handle} {i : Fin 48} {o : Obj} {r : Resource} {amount : Nat} (names : h.slotOf hd = some i)
    (there : h.objAt i = some o) (part : o.part = .resource r) (blocked : h.acquireBlocked hd amount = true) :
    r.waitList ≠ [] ∨ r.available < amount := by
  rw [acquireBlocked, resourceOf_eq names there (by rw [part]; rfl)] at blocked
  simpa using blocked

theorem wait_blocked {h : Hub} {hd : Handle} {i : Fin 48} {o : Obj} {g : Signal} (names : h.slotOf hd = some i)
    (there : h.objAt i = some o) (part : o.part = .signal g) (blocked : h.waitBlocked hd = true) :
    g.waitList ≠ [] ∨ g.count = 0 := by
  rw [waitBlocked, signalOf_eq names there (by rw [part]; rfl)] at blocked
  simpa using blocked

theorem receive_blocked {h : Hub} {hd : Handle} {i : Fin 48} {o : Obj} {q : Queue} (names : h.slotOf hd = some i)
    (there : h.objAt i = some o) (part : o.part = .queue q) (blocked : h.receiveBlocked hd = true) : q.readyCount = 0 := by
  rw [receiveBlocked, queueOf_eq names there (by rw [part]; rfl)] at blocked
  simpa using blocked

/-- A RESOURCE that a DELETE finds not in use holds all its tokens. -/
theorem delete_passed {h : Hub} {l : Link} {rq : Request} {hd : Handle} {i : Fin 48} {o : Obj} {r : Resource}
    (body : rq.body = .delete hd) (passes : h.refusal l rq = none) (names : h.slotOf hd = some i) (there : h.objAt i = some o)
    (part : o.part = .resource r) : r.limit ≤ r.available := by
  simp only [refusal, checks, body, firstFailing_append, Option.or_eq_none_iff] at passes
  have free := firstFailing_none passes.2 _ List.mem_cons_self
  rw [resourceOf_eq names there (by rw [part]; rfl)] at free
  simp only [Bool.or_eq_false_iff, Option.any_some, decide_eq_false_iff_not] at free
  exact Nat.le_of_not_lt free.1

/-- A list with a waiter has a blocked one, which its object serves. -/
theorem ListsSound.head_blocked {h : Hub} {i : Fin 48} {o : Obj} (sound : h.ListsSound) (there : h.objAt i = some o)
    (waiters : o.part.waitList ≠ []) : ∃ w, o.part.Serves w ∧ o.part.Blocks w := by
  obtain ⟨st, rest, list⟩ := List.exists_cons_of_ne_nil waiters
  obtain ⟨w, waits, is⟩ := ((sound.listed i).mem st).1
    (by rw [Slot.waitList_of_obj there, list]; exact List.mem_cons_self)
  exact ⟨w, (sound.listed i).serves o w there waits, sound.settled i o st rest w there list waits is⟩

/-- A RESOURCE that holds all its tokens has no waiter. -/
theorem ListsSound.alone_of_full {h : Hub} {i : Fin 48} {o : Obj} {r : Resource} (sound : h.ListsSound)
    (there : h.objAt i = some o) (part : o.part = .resource r) (full : r.limit ≤ r.available) : o.part.waitList = [] := by
  by_contra waiters
  obtain ⟨w, serves, blocks⟩ := sound.head_blocked there waiters
  rw [part] at serves blocks
  exact Nat.not_lt.2 (Nat.le_trans serves.2.2 full) blocks

/-! ### Requests on an object -/

/-- A request met at once leaves the list as it was, with its head as blocked as before. -/
theorem ListsSound.answered {h : Hub} {i : Fin 48} {o : Obj} {p : Part} {l : Link} {rq : Request} {code : ResultCode}
    {body : List Byte} {msg : Option MessageRef} (sound : h.ListsSound) (live : (h.slot i).state = .live o)
    (keeps : o.part.Keeps p) (list : p.waitList = o.part.waitList)
    (blocks : o.part.waitList ≠ [] → ∀ w, o.part.Serves w → o.part.Blocks w → p.Blocks w) :
    ((h.setLive i o p).reply l rq code body msg).ListsSound :=
  sound.restate_blocked (objAt_of_live live) (partSet_answered h i o p l rq code body msg) keeps list
    (reply_waiters _ _ _ _ _ _) blocks

/-- Tokens or events given to a semaphore, the response, and the grant pass. -/
theorem ListsSound.given {h : Hub} {i : Fin 48} {o : Obj} {p : Part} {l : Link} {rq : Request} {code : ResultCode}
    {body : List Byte} {msg : Option MessageRef} (sound : h.ListsSound) (distinct : h.StampsDistinct)
    (live : (h.slot i).state = .live o) (keeps : o.part.Keeps p) (list : p.waitList = o.part.waitList)
    (semaphore : ∀ q, p ≠ .queue q) : (((h.setLive i o p).reply l rq code body msg).grantPass i).ListsSound :=
  sound.restate_pass (((setLive_keeps live keeps).trans (reply_keeps _ _ _ _ _ _)).stamps distinct) (objAt_of_live live)
    (partSet_answered h i o p l rq code body msg) keeps list (reply_waiters _ _ _ _ _ _) semaphore

theorem acquire_sound {h : Hub} {l : Link} {rq : Request} {hd : Handle} {amount priority timeout : Nat} (ticks : Nat)
    (distinct : h.StampsDistinct) (sound : h.ListsSound) (body : rq.body = .acquire hd amount priority timeout)
    (passes : h.refusal l rq = none) : (h.acquire ticks l rq hd amount priority timeout).ListsSound := by
  obtain ⟨i, o, r, names, live, part, atOnce, blocked⟩ := (h.acquire_spec ticks l rq hd amount priority timeout body).2 passes
  have there := objAt_of_live live
  rcases b : h.acquireBlocked hd amount
  · obtain ⟨alone, enough, eq⟩ := atOnce b
    rw [eq]
    exact sound.answered live (part ▸ Part.keeps_take l r.waitList enough) (by rw [part]; rfl)
      fun waiters => absurd (by rw [part]; exact alone) waiters
  · obtain ⟨some, limit, refused⟩ := acquire_passed body passes
    have waits := blocked b
    dsimp only at waits
    rw [waits]
    have serves : o.part.Serves (h.newWaiter l rq hd .acquire amount priority timeout) := by
      rw [part]; exact ⟨rfl, some, limit r (resourceOf_eq names there (by rw [part]; rfl))⟩
    obtain ⟨listed, touches, ⟨ws, set⟩, settled⟩ :=
      makeWaiter_sound ticks o.discipline timeout distinct sound names there serves
    split
    · have keeps := makeWaiter_keeps ticks hd o.discipline .acquire amount priority timeout live (refused b)
      obtain ⟨listed, settled, passed⟩ := grantPass_sound (keeps.stamps distinct) listed set fun q queue => by
        rw [part] at queue; cases queue
      exact sound.touch (touches.trans passed) listed settled
    · rename_i stays
      refine settled fun head => ?_
      have alone : r.waitList = [] := by
        by_contra waiters
        exact stays ⟨by rw [waitListAt_of_objAt there, part]; exact waiters, head⟩
      rw [part]
      exact (acquire_blocked names there part b).resolve_left (not_not_intro alone)

theorem wait_sound {h : Hub} {l : Link} {rq : Request} {hd : Handle} {priority timeout : Nat} (ticks : Nat)
    (distinct : h.StampsDistinct) (sound : h.ListsSound) (body : rq.body = .wait hd priority timeout)
    (passes : h.refusal l rq = none) : (h.wait ticks l rq hd priority timeout).ListsSound := by
  obtain ⟨i, o, g, names, live, part, atOnce, blocked⟩ := (h.wait_spec ticks l rq hd priority timeout body).2 passes
  have there := objAt_of_live live
  rcases b : h.waitBlocked hd
  · obtain ⟨alone, -, eq⟩ := atOnce b
    rw [eq]
    exact sound.answered live (part ▸ Part.keeps_event g g.waitList) (by rw [part]; rfl)
      fun waiters => absurd (by rw [part]; exact alone) waiters
  · rw [blocked b]
    obtain ⟨-, -, -, settled⟩ := makeWaiter_sound ticks (l := l) (rq := rq) (op := .wait) (amount := 1) (priority := priority)
      o.discipline timeout distinct sound names there (by rw [part]; exact ⟨rfl, rfl⟩)
    refine settled fun _ => ?_
    rcases wait_blocked names there part b with waiters | zero
    · obtain ⟨w, -, blocks⟩ := sound.head_blocked there (by rw [part]; exact waiters)
      rw [part] at blocks ⊢; exact blocks
    · rw [part]; exact zero

theorem receive_sound {h : Hub} {l : Link} {rq : Request} {hd : Handle} {priority timeout : Nat} (ticks : Nat)
    (distinct : h.StampsDistinct) (sound : h.ListsSound) (body : rq.body = .receive hd priority timeout)
    (passes : h.refusal l rq = none) : (h.receive ticks l rq hd priority timeout).ListsSound := by
  obtain ⟨i, o, q, names, live, part, atOnce, blocked⟩ := (h.receive_spec ticks l rq hd priority timeout body).2 passes
  have there := objAt_of_live live
  rcases b : h.receiveBlocked hd
  · obtain ⟨older, m, newer, messages, -, ready, eq⟩ := atOnce b
    rw [eq]
    refine sound.answered live (part ▸ Part.keeps_queue (Queue.keeps_claim _ q.waitList messages)) (by rw [part]; rfl)
      fun _ w _ blocks => ?_
    rw [part] at blocks
    have none := List.countP_eq_zero.1 blocks m (by rw [messages]; simp)
    simp [Message.isReady, ready] at none
  · rw [blocked b]
    obtain ⟨-, -, -, settled⟩ := makeWaiter_sound ticks (l := l) (rq := rq) (op := .receive) (amount := 1)
      (priority := priority) o.discipline timeout distinct sound names there (by rw [part]; exact ⟨rfl, rfl⟩)
    exact settled fun _ => by rw [part]; exact receive_blocked names there part b

/-- The records after a DELETE has abandoned the waiters of a list: those of the list wait no more. -/
theorem waiting_deleted (h : Hub) (l : Link) (rq : Request) (sts : List Stamp) (x : Waiter) :
    (sts.foldl abandon (h.reply l rq .ok [] none)).Waiting x ↔ h.Waiting x ∧ x.stamp ∉ sts := by
  rw [waiting_abandons, waiting_of_waiters (reply_waiters h l rq .ok [] none)]

/-- The object of a LIVE slot goes with the waiters on its list (R16, R85). -/
theorem ListsSound.deleted {h : Hub} {i : Fin 48} {o : Obj} {sl : Slot} (sound : h.ListsSound) (distinct : h.StampsDistinct)
    (l : Link) (rq : Request) (there : h.objAt i = some o) (empty : sl.waitList = []) :
    ((o.part.waitList.foldl abandon (h.reply l rq .ok [] none)).setSlot i sl).ListsSound := by
  have slots : (o.part.waitList.foldl abandon (h.reply l rq .ok [] none)).slots = h.slots := by simp
  refine sound.vacated distinct (fun j ne => ?_) (by rw [slot_setSlot_self]; exact empty) fun w => ?_
  · rw [slot_setSlot_other _ sl (Ne.symm ne)]; exact slot_of_slots slots j
  · rw [Slot.waitList_of_obj there]; exact h.waiting_deleted l rq o.part.waitList w

theorem delete_sound {h : Hub} {l : Link} {rq : Request} {hd : Handle} (distinct : h.StampsDistinct) (sound : h.ListsSound)
    (body : rq.body = .delete hd) (passes : h.refusal l rq = none) : (h.delete l rq hd).ListsSound := by
  obtain ⟨i, o, names, live, eq⟩ := (h.delete_spec l rq hd body).2 passes
  have there := objAt_of_live live
  rw [eq]
  cases part : o.part with
  | resource r =>
    have alone := sound.alone_of_full there part (delete_passed body passes names there part)
    have freed : (h.freeSlotAt i).ListsSound :=
      sound.replaced distinct (by rw [Slot.waitList_of_obj there]; exact alone) (waitList_freed _)
    exact freed.reply _ _ _ _ _
  | signal g =>
    have deleted := sound.deleted distinct l rq there (waitList_freed
      ((o.part.waitList.foldl abandon (h.reply l rq .ok [] none)).slot i))
    rw [part] at deleted
    exact deleted
  | queue q =>
    dsimp only
    rw [deleteQueue_eq]
    have deleted := sound.deleted distinct l rq there (sl := if q.spendReady.reclaim.messages = [] then (h.slot i).freed
      else { h.slot i with
        state := .draining { o with part := .queue { q with messages := q.spendReady.reclaim.messages, waitList := [] } } })
      (by split <;> rfl)
    rw [part] at deleted
    exact deleted

/-- SEND (R77): with a waiter the message is claimed for the head, and none is READY; without one no head is there. -/
theorem acceptSend_sound {h : Hub} (l : Link) (rq : Request) {i : Fin 48} {o : Obj} {q : Queue} {payload : List Byte}
    (distinct : h.StampsDistinct) (sound : h.ListsSound) (live : (h.slot i).state = .live o) (part : o.part = .queue q)
    (short : payload.length ≤ q.maxLength) (entry : q.messages.length < q.maxEntries)
    (room : footprint payload.length ≤ q.freeBytes) : (h.acceptSend l rq i q payload).ListsSound := by
  have there := objAt_of_live live
  have partSet (m : Message) (ws : List Stamp) :
      PartSet i o (.queue { q.accept m with waitList := ws }) h (h.sent l rq i o q payload m ws) :=
    (partSet_setLive h i o _).congr (reply_slots _ _ _ _ _ _)
  have waiters (m : Message) (ws : List Stamp) : (h.sent l rq i o q payload m ws).waiters = h.waiters :=
    reply_waiters _ _ _ _ _ _
  have list : o.part.waitList = q.waitList := by rw [part]; rfl
  have keeps {state : MessageState} {deliveries : Nat} (ws : List Stamp) (unspent : state ≠ .spent) :
      o.part.Keeps (.queue
        { q.accept { q.newMessage payload with state := state, deliveries := deliveries } with waitList := ws }) :=
    part ▸ Part.keeps_queue (Queue.keeps_accept ws unspent short entry room)
  rcases acceptSend_cases l rq payload live with ⟨w, head, eq⟩ | ⟨no, eq⟩
  · obtain ⟨st, first, found⟩ := Option.bind_eq_some_iff.1 head
    obtain ⟨rest, first⟩ := List.head?_eq_some_iff.1 first
    have stamp := (findWaiter_some found).2
    obtain ⟨x, -, blocks⟩ := sound.head_blocked there (by rw [list, first]; exact List.cons_ne_nil _ _)
    have unready : q.readyCount = 0 := by rw [part] at blocks; exact blocks
    dsimp only at eq
    rw [eq]
    have set := (partSet ((q.newMessage payload).claim ⟨w.link, w.session, .notice⟩) q.waitList.tail).congr
      (deliver_slots _ { q.accept ((q.newMessage payload).claim ⟨w.link, w.session, .notice⟩) with waitList := q.waitList.tail }
        w ((q.newMessage payload).claim ⟨w.link, w.session, .notice⟩))
    obtain ⟨listed, touches⟩ := serve_head distinct (sound.listed i) there (list.trans first) set
      (keeps (state := .claimed ⟨w.link, w.session, .notice⟩) (deliveries := saturate8 0) q.waitList.tail nofun).serves
      (by rw [first]; rfl) fun x => by
        rw [waiting_deliver, waiting_of_waiters (waiters _ _), stamp]
    refine sound.touch touches listed fun o' st' rest' x there' _ _ _ => ?_
    cases there'.symm.trans set.there
    show (q.messages ++ [(q.newMessage payload).claim _]).countP Message.isReady = 0
    rw [List.countP_append, show q.messages.countP Message.isReady = 0 from unready]
    rfl
  · have alone : q.waitList = [] := by
      cases waiting : q.waitList with
      | nil => rfl
      | cons st rest =>
        obtain ⟨w, found, -⟩ := (sound.listed i).find distinct (st := st)
          (by rw [Slot.waitList_of_obj there, list, waiting]; exact List.mem_cons_self)
        rw [waiting] at no
        exact absurd (no.symm.trans found) nofun
    have answered := sound.restate_blocked there (partSet (q.newMessage payload) q.waitList)
      (keeps (state := .ready) (deliveries := 0) q.waitList nofun) list.symm (waiters _ _)
      fun some => absurd (list.trans alone) some
    rcases eq with eq | ⟨c, eq⟩
    · rw [eq]; exact answered
    · rw [eq]; exact signalCompanion_sound (distinct.of_same (waiters _ _) (reply_stampCounter _ _ _ _ _ _)) answered c

/-- CANCEL (R59): the record goes, and its place in the list. -/
theorem cancelWaiting_sound {h : Hub} {w : Waiter} (l : Link) (rq : Request) (distinct : h.StampsDistinct)
    (sound : h.ListsSound) (waits : h.Waiting w) : (h.cancelWaiting l rq w).ListsSound := by
  obtain ⟨i, o, names, there, mem⟩ := sound.names waits
  rw [cancelWaiting_eq names]
  refine sound.quit distinct ?_ waits names there mem (reply_slots _ _ _ _ _ _) fun x => ?_
  · have left := filterRecords_keeps (h.leaveWaitList i w.stamp) fun x => decide (x.stamp ≠ w.stamp)
    exact ((h.leaveWaitList_keeps i w.stamp).trans (left.trans (keeps_of_same rfl rfl rfl))).stamps distinct
  · simp only [Waiting, reply_waiters, List.mem_filter, decide_eq_true_eq, List.mem_singleton, ne_eq]
    tauto

theorem listsSound_of_none {h : Hub} (noRecord : h.waiters = []) (empty : ∀ i, (h.slot i).waitList = []) : h.ListsSound := by
  have none (w : Waiter) : ¬ h.Waiting w := fun waits => by have mem := waits.1; rw [noRecord] at mem; cases mem
  exact ⟨fun w waits => absurd waits (none w), fun i => Slot.lists_empty (empty i) fun w waits => none w waits.1,
    fun i => Slot.settled_empty (empty i)⟩

theorem waitList_atHubReset (s : Slot) : s.atHubReset.waitList = [] := by
  unfold Slot.atHubReset
  split
  · rename_i free; rw [Slot.waitList, free]; rfl
  · rfl

/-- HUB_RESET (R116): every slot is free, and no record is left. -/
theorem hubReset_sound {h : Hub} (sound : h.ListsSound) (l : Link) (rq : Request) : (h.hubReset l rq).ListsSound := by
  rcases right : h.manages l
  · have refused : h.hubReset l rq = h.refuse l rq .denied := by simp [hubReset, right]
    rw [refused]
    exact sound.reply _ _ _ _ _
  · rw [hubReset_frame rq right]
    exact listsSound_of_none rfl fun i => by simp only [slot, Fin.getElem_fin, Vector.getElem_map, waitList_atHubReset]

/-- SET_ACCESS (R13): an object gets another access set, and keeps its part. -/
theorem ListsSound.access_set {h : Hub} {i : Fin 48} {o o' : Obj} (sound : h.ListsSound) (live : (h.slot i).state = .live o)
    (part : o'.part = o.part) : (h.setSlot i { h.slot i with state := .live o' }).ListsSound := by
  have there := objAt_of_live live
  have there' : (h.setSlot i { h.slot i with state := .live o' }).objAt i = some o' := by rw [objAt, slot_setSlot_self]; rfl
  refine sound.touch ⟨fun _ ne => slot_setSlot_other h _ (Ne.symm ne), fun _ _ => Iff.rfl⟩ ?_ ?_
  · exact Slot.Lists.leave (gone := []) (sound.listed i) there there' (by rw [slot_setSlot_self]) (fun w => by rw [part]; exact id)
      (by simp [part]) fun w => by simp [WaitingAt, Waiting, setSlot]
  · intro x st rest w is list waits stamp
    cases there'.symm.trans is
    rw [part] at list ⊢
    exact sound.settled i o st rest w there list waits stamp

/-- A request that no check refuses, other than CREATE. -/
theorem perform_sound {h : Hub} {l : Link} {rq : Request} (ticks : Nat) (distinct : h.StampsDistinct) (sound : h.ListsSound)
    (passes : h.refusal l rq = none) (noCreate : rq.body.common? = none) : (rq.body.perform ticks l rq h).ListsSound := by
  cases body : rq.body with
  | createResource c => rw [body] at noCreate; cases noCreate
  | createSignal c => rw [body] at noCreate; cases noCreate
  | createQueue c => rw [body] at noCreate; cases noCreate
  | delete hd => exact delete_sound distinct sound body passes
  | lookup name =>
    obtain ⟨i, o, -, -, eq⟩ := (h.lookup_spec l rq name body).2 passes
    rw [ObjReq.perform, eq]; exact sound.reply _ _ _ _ _
  | query hd =>
    obtain ⟨i, o, -, -, eq⟩ := (h.query_spec l rq hd body).2 passes
    rw [ObjReq.perform, eq]; exact sound.reply _ _ _ _ _
  | setAccess hd access =>
    obtain ⟨i, o, -, live, -, eq⟩ := (h.setAccess_spec l rq hd access body).2 passes
    rw [ObjReq.perform, eq]
    exact (sound.access_set (o' := { o with access := linkSetOf access }) live rfl).reply _ _ _ _ _
  | reclaim hd =>
    obtain ⟨i, o, r, -, live, part, -, eq⟩ := (h.reclaimTokens_spec l rq hd body).2 passes
    rw [ObjReq.perform, eq]
    exact sound.given distinct live (part ▸ Part.keeps_reclaim r) (by rw [part]; rfl) nofun
  | acquire hd amount priority timeout => exact acquire_sound ticks distinct sound body passes
  | release hd amount =>
    obtain ⟨i, o, r, -, live, part, held, eq⟩ := (h.release_spec l rq hd amount body).2 passes
    rw [ObjReq.perform, eq]
    exact sound.given distinct live (part ▸ Part.keeps_giveBack l held) (by rw [part]; rfl) nofun
  | signal hd amount =>
    obtain ⟨i, o, g, -, live, part, room, eq⟩ := (h.signal_spec l rq hd amount body).2 passes
    rw [ObjReq.perform, eq]
    exact sound.given distinct live (part ▸ Part.keeps_count room) (by rw [part]; rfl) nofun
  | wait hd priority timeout => exact wait_sound ticks distinct sound body passes
  | cancel tag =>
    obtain ⟨w, mem, -, -, waiting, eq⟩ := (h.cancel_spec l rq tag body).2 passes
    rw [ObjReq.perform, eq]; exact cancelWaiting_sound l rq distinct sound ⟨mem, waiting⟩
  | send hd payload =>
    obtain ⟨i, o, q, -, live, part, short, entry, room, eq⟩ := (h.send_spec l rq hd payload body).2 passes
    rw [ObjReq.perform, eq]; exact acceptSend_sound l rq distinct sound live part short entry room
  | receive hd priority timeout => exact receive_sound ticks distinct sound body passes
  | flush hd =>
    obtain ⟨i, o, q, -, live, part, eq⟩ := (h.flush_spec l rq hd body).2 passes
    rw [ObjReq.perform, eq]
    exact sound.answered live (part ▸ Part.keeps_queue (q.keeps_reclaimed (layout_spend Message.isReady .spent) q.waitList))
      (by rw [part]; rfl) fun _ w _ blocks => Part.blocks_queue_of_le (q.readyCount_spend Message.isReady) w (part ▸ blocks)
  | evict target =>
    obtain ⟨t, -, -, eq⟩ := (h.evict_spec l rq target body).2 passes
    rw [ObjReq.perform, eq]; exact sound.of_records rfl rfl
  | hubReset => exact hubReset_sound sound l rq

/-- CREATE (R12): an object without waiters in a FREE slot. -/
theorem ListsSound.created {h : Hub} {i : Fin 48} {o : Obj} {g : Nat} (sound : h.ListsSound) (distinct : h.StampsDistinct)
    (free : (h.slot i).state = .free) (noWaiter : o.part.waitList = []) :
    (h.setSlot i { gen := g, state := .live o }).ListsSound :=
  sound.replaced distinct (by rw [Slot.waitList, free]; rfl) noWaiter

/-- A request that the engine takes. -/
theorem request_sound {h : Hub} {l : Link} {rq : Request} (ticks : Nat) (distinct : h.StampsDistinct) (sound : h.ListsSound) :
    (rq.body.perform ticks l rq (h.takeFrom l)).ListsSound := by
  have taken : (h.takeFrom l).ListsSound := sound.of_records rfl rfl
  rcases passes : (h.takeFrom l).refusal l rq with _ | code
  · rcases create : rq.body.common? with _ | c
    · exact perform_sound ticks distinct taken passes create
    · obtain ⟨p, new, i, free, -, eq⟩ := perform_creates ticks create passes
      rw [eq, create_eq]
      exact (taken.created distinct free new.noWaiter).reply _ _ _ _ _
  · rw [perform_refused ticks passes]
    exact taken.reply _ _ _ _ _

end Hub
end Sys2Proof.Machine
end

section
/-! The purge (R113) visits the slots one after another: behind it the lists hold the other links' waiters, ahead of it all. Then every
item of the engine, and with it every step, loses no waiter and leaves none overdue. -/

namespace Sys2Proof.Machine
namespace Hub

/-! ### The purge at one slot -/

/-- The records that a purge of the link leaves. -/
def ofOthers (l : Link) (w : Waiter) : Prop := w.link ≠ l

theorem mine_stamp {h : Hub} {w : Waiter} (distinct : h.StampsDistinct) (mem : w ∈ h.waiters) (l : Link) :
    h.mine l w.stamp = decide (w.link = l) := by
  rw [mine, findWaiter_of_mem distinct mem, Option.any_some]

theorem kept_eq_filter (h : Hub) (l : Link) (ws : List Stamp) :
    h.kept l ws = ws.filter fun st => decide (st ∉ ws.filter (h.mine l)) :=
  List.filter_congr fun st mem => by simp [mem]

/-- The link's waiters leave the list of a LIVE slot, and its part is set. -/
theorem purged_listed {h : Hub} {i : Fin 48} {o : Obj} {p : Part} {ws : List Stamp} (l : Link) (distinct : h.StampsDistinct)
    (listed : h.ListedAt everyone i) (live : (h.slot i).state = .live o) (keeps : o.part.Keeps p)
    (list : p.waitList = h.kept l o.part.waitList) :
    ((h.without l ws).setLive i o p).ListedAt (ofOthers l) i ∧ TouchesOnly i h ((h.without l ws).setLive i o p) := by
  have there := objAt_of_live live
  have set : PartSet i o p h ((h.without l ws).setLive i o p) := by
    obtain ⟨others, gen, set⟩ := partSet_setLive (h.without l ws) i o p
    exact ⟨others, gen, set⟩
  refine ⟨Slot.Lists.leave (gone := o.part.waitList.filter (h.mine l)) listed there set.there set.gen keeps.serves
    (list.trans (h.kept_eq_filter l _)) fun w => ?_, set.others, fun _ _ => Iff.rfl⟩
  constructor
  · rintro ⟨waits, slot, other⟩
    refine ⟨⟨waits, slot, trivial⟩, fun gone => other ?_⟩
    have mine := (List.mem_filter.1 gone).2
    rw [mine_stamp distinct waits.1] at mine
    exact of_decide_eq_true mine
  · rintro ⟨⟨waits, slot, -⟩, stays⟩
    refine ⟨waits, slot, fun mine => stays (List.mem_filter.2 ⟨?_, ?_⟩)⟩
    · rw [← Slot.waitList_of_obj there]
      exact (listed.mem w.stamp).2 ⟨w, ⟨waits, slot, trivial⟩, rfl⟩
    · rw [mine_stamp distinct waits.1]; exact decide_eq_true mine

/-- Where no waiter of the link was on the list, its head is as blocked as before. -/
theorem purged_settled {h : Hub} {i : Fin 48} {o : Obj} {p : Part} {ws : List Stamp} (l : Link)
    (settled : h.SettledAt everyone i) (live : (h.slot i).state = .live o) (list : p.waitList = o.part.waitList)
    (blocks : ∀ w, o.part.Blocks w → p.Blocks w) : ((h.without l ws).setLive i o p).SettledAt (ofOthers l) i := by
  intro o' st rest w there' head waits stamp
  cases there'.symm.trans (objAt_setLive_self (h.without l ws) i o p)
  exact blocks w (settled o st rest w (objAt_of_live live) (list.symm.trans head) ⟨waits.1, waits.2.1, trivial⟩ stamp)

/-- A semaphore's slot: the pass follows, or nothing that it could do. -/
theorem purged_sound {h : Hub} {i : Fin 48} {o : Obj} {p : Part} {ws : List Stamp} (l : Link) (distinct : h.StampsDistinct)
    (listed : h.ListedAt everyone i) (settled : h.SettledAt everyone i) (live : (h.slot i).state = .live o)
    (keeps : o.part.Keeps p) (list : p.waitList = h.kept l o.part.waitList) (semaphore : ∀ q, p ≠ .queue q) (same : Prop)
    [Decidable same]
    (blocks : same → h.kept l o.part.waitList = o.part.waitList ∧ ∀ w, o.part.Blocks w → p.Blocks w) :
    let after := (h.without l ws).setLive i o p
    let h' := if same then after else after.grantPass i
    h'.ListedAt (ofOthers l) i ∧ h'.SettledAt (ofOthers l) i ∧ TouchesOnly i h h' := by
  obtain ⟨listed', touches⟩ := purged_listed (ws := ws) l distinct listed live keeps list
  intro after h'
  by_cases is : same
  · have stays : h' = after := if_pos is
    rw [stays]
    exact ⟨listed', purged_settled l settled live (list.trans (blocks is).1) (blocks is).2, touches⟩
  · have passes : h' = after.grantPass i := if_neg is
    rw [passes]
    obtain ⟨listed'', settled', touches'⟩ := grantPass_sound ((purged_keeps l ws live keeps).stamps distinct) listed'
      (objAt_setLive_self _ i o p) fun q queue => absurd queue (semaphore q)
    exact ⟨listed'', settled', touches.trans touches'⟩

theorem purgeSlot_sound {h : Hub} {i : Fin 48} (l : Link) (distinct : h.StampsDistinct) (queues : h.QueuesSound)
    (listed : h.ListedAt everyone i) (settled : h.SettledAt everyone i) :
    (purgeSlot l h i).1.ListedAt (ofOthers l) i ∧ (purgeSlot l h i).1.SettledAt (ofOthers l) i ∧
      TouchesOnly i h (purgeSlot l h i).1 := by
  have alone {h' : Hub} (others : ∀ j, j ≠ i → h'.slot j = h.slot j) (before : (h.slot i).waitList = [])
      (after : (h'.slot i).waitList = []) (waiters : h'.waiters = h.waiters) :
      h'.ListedAt (ofOthers l) i ∧ h'.SettledAt (ofOthers l) i ∧ TouchesOnly i h h' :=
    ⟨Slot.lists_empty after fun w ⟨waits, slot, _⟩ => listed.none_of_empty before w
      ⟨(waiting_of_waiters waiters w).1 waits, slot, trivial⟩, Slot.settled_empty after, others,
      fun w _ => waiting_of_waiters waiters w⟩
  cases state : (h.slot i).state with
  | free =>
    have empty : (h.slot i).waitList = [] := by rw [Slot.waitList, state]; rfl
    simp only [purgeSlot, state]
    exact alone (fun _ _ => rfl) empty empty rfl
  | live o =>
    cases part : o.part with
    | resource r =>
      rw [purgeSlot_resource l state part]
      refine purged_sound l distinct listed settled state (part ▸ Part.keeps_purgeHolding r l (h.kept l r.waitList))
        (by rw [part]; rfl) (fun q is => by cases is) _ ?_
      rintro ⟨none, same⟩
      refine ⟨by rw [part]; exact same, fun w blocks => ?_⟩
      rw [part] at blocks
      rw [r.purgeHolding_eq, none]
      simpa [Part.Blocks] using blocks
    | signal g =>
      have same : (Part.signal g).Keeps (.signal { g with waitList := h.kept l g.waitList }) := Part.keeps_signal id
      rw [purgeSlot_signal l state part]
      refine purged_sound l distinct listed settled state (part ▸ same) (by rw [part]; rfl) (fun q is => by cases is) _ ?_
      exact fun same => ⟨by rw [part]; exact same, fun w blocks => by rw [part] at blocks; exact blocks⟩
    | queue q =>
      rw [purgeSlot_liveQueue l state part]
      have keeps : o.part.Keeps (.queue { (q.withdrawClaims l .ready).reclaim with waitList := h.kept l q.waitList }) :=
        part ▸ Part.keeps_queue (q.keeps_reclaimed (layout_spend (fun m => m.claimedBy l) .ready) (h.kept l q.waitList))
      obtain ⟨listed', touches⟩ := purged_listed (ws := q.waitList) l distinct listed state keeps (by rw [part]; rfl)
      obtain ⟨listed'', settled', touches'⟩ := handOut_sound (h.kept l q.waitList)
        ((purged_keeps l q.waitList state keeps).stamps distinct) listed' (objAt_setLive_self _ i o _) rfl rfl
      exact ⟨listed'', settled', touches.trans touches'⟩
  | draining o =>
    obtain ⟨-, -, drained⟩ := queues
    obtain ⟨q, part, empty, -⟩ := drained i o state
    rw [purgeSlot_drainingQueue l state part]
    refine alone (fun j ne => slot_setSlot_other _ _ (Ne.symm ne)) ?_ ?_ rfl
    · rw [Slot.waitList_of_obj (objAt_of_draining state), part]; exact empty
    · dsimp only
      rw [slot_setSlot_self]
      split
      · rfl
      · simp [Slot.waitList, SlotState.obj, kept, empty]

/-! ### The visit of all slots -/

/-- A purge of the link that has yet to visit the slots `ahead`. -/
structure PurgeSound (l : Link) (ahead : List (Fin 48)) (h : Hub) : Prop where
  range : ∀ w, h.Waiting w → w.object.slot < 48
  before : ∀ j ∈ ahead, h.ListedAt everyone j ∧ h.SettledAt everyone j
  behind : ∀ j ∉ ahead, h.ListedAt (ofOthers l) j ∧ h.SettledAt (ofOthers l) j

theorem purgeSlots_sound (l : Link) (is : List (Fin 48)) : ∀ {h : Hub}, is.Nodup → h.StampsDistinct → h.QueuesSound →
    PurgeSound l is h → PurgeSound l [] (purgeSlots l is h).1 := by
  induction is with
  | nil => exact fun _ _ _ sound => sound
  | cons i is ih =>
    intro h nodup distinct queues sound
    obtain ⟨once, nodup⟩ := List.nodup_cons.1 nodup
    obtain ⟨listed, settled⟩ := sound.before i List.mem_cons_self
    obtain ⟨listed, settled, touches⟩ := purgeSlot_sound l distinct queues listed settled
    have keeps := (purgeSlot_keeps l h i).keepsEngine
    refine ih nodup (keeps.stamps distinct) (keeps.queues queues) ⟨touches.range sound.range, fun j mem => ?_, fun j off => ?_⟩
    · have ne : j ≠ i := fun is => once (is ▸ mem)
      obtain ⟨listed, settled⟩ := sound.before j (List.mem_cons_of_mem _ mem)
      exact ⟨touches.listedAt ne listed, touches.settledAt ne settled⟩
    · by_cases is : j = i
      · rw [is]; exact ⟨listed, settled⟩
      · obtain ⟨listed, settled⟩ := sound.behind j fun mem => off ((List.mem_cons.1 mem).resolve_left is)
        exact ⟨touches.listedAt is listed, touches.settledAt is settled⟩

/-- The link's records go when their stamps have left all lists (R113 step 2). -/
theorem PurgeSound.filtered {l : Link} {h : Hub} (sound : PurgeSound l [] h) :
    ListsSound { h with waiters := h.waiters.filter fun w => w.link ≠ l } := by
  have waiting (w : Waiter) : Waiting { h with waiters := h.waiters.filter fun w => w.link ≠ l } w ↔
      h.Waiting w ∧ ofOthers l w := by
    simp only [Waiting, List.mem_filter, decide_eq_true_eq, ofOthers]; tauto
  have at_ (i : Fin 48) (w : Waiter) : WaitingAt { h with waiters := h.waiters.filter fun w => w.link ≠ l } everyone i w ↔
      h.WaitingAt (ofOthers l) i w := by
    simp only [WaitingAt, waiting, everyone]; tauto
  refine ⟨fun w waits => sound.range w ((waiting w).1 waits).1, fun i => ?_, fun i => ?_⟩
  · exact (sound.behind i List.not_mem_nil).1.congr (at_ i)
  · exact (sound.behind i List.not_mem_nil).2.congr (at_ i)

theorem purge_sound {h : Hub} (distinct : h.StampsDistinct) (queues : h.QueuesSound) (sound : h.ListsSound) (l : Link) :
    (h.purge l).ListsSound := by
  have visited := purgeSlots_sound l slotNumbers (List.nodup_finRange 48) distinct queues
    ⟨sound.range, fun j _ => ⟨sound.listed j, sound.settled j⟩, fun j off => absurd (List.mem_finRange j) off⟩
  have keeps := (purgeSlots_keeps l slotNumbers h).trans (filterRecords_keeps _ fun w => w.link ≠ l)
  have signalled := signalCompanions_sound (purgeSlots l slotNumbers h).2 (keeps.stamps distinct) visited.filtered
  unfold purge purgeCompletion
  dsimp only
  split
  · rw [leaveEnding_frame]; exact signalled.of_records rfl rfl
  · exact signalled

/-! ### Every item of the engine -/

theorem turn_sound (turn : Turn) (ticks : Nat) {h : Hub} (distinct : h.StampsDistinct) (queues : h.QueuesSound)
    (sound : h.ListsSound) : (turn.perform ticks h).ListsSound :=
  match turn with
  | .item _ (.request _) => request_sound ticks distinct sound
  | .item l (.freeWaiter st) => freeWaiter_sound (h := h.takeFrom l) distinct (sound.of_records rfl rfl) st
  | .item l (.spendMessage ref session c) =>
    spendMessage_sound (h := h.takeFrom l) distinct queues (sound.of_records rfl rfl) l ref session c
  | .item l .purge => purge_sound (h := h.takeFrom l) distinct queues (sound.of_records rfl rfl) l
  | .expiry st => expire_sound (h := h.takeExpiry.moveDue) distinct (sound.of_records rfl rfl) st

theorem ListsSound.of_same_records {h h' : Hub} (sound : h.ListsSound) (same : h'.records = h.records) : h'.ListsSound := by
  simp only [records, Prod.mk.injEq] at same
  obtain ⟨slots, waiters, -⟩ := same
  exact sound.of_records slots waiters

end Hub

/-- Settles O60: slot by slot, no list loses a waiter and no head is left that could be satisfied; the other invariants of the
engine hold on with it. -/
theorem stepLeavesNoWaiterLostOrOverdue : Obligations.StepLeavesNoWaiterLostOrOverdue := by
  rintro s t ⟨tokens, queues, stamps, tags, lists, overdue⟩ run
  have keeps := step_keepsEngine run
  have sound := (Hub.listsSound_iff stamps).2 ⟨lists, overdue⟩
  have after : t.toHub.ListsSound := by
    obtain ⟨t', run', did⟩ := step_cases s
    cases run.symm.trans run'
    rcases did with same | ⟨p, reset⟩ | ⟨ticks, turn, -, eq⟩
    · exact sound.of_same_records same
    · rw [reset]
      exact Hub.listsSound_of_none rfl fun i => by simp [Hub.slot, Hub.reset, Slot.waitList, SlotState.obj]
    · have caught := s.toHub.catchUp_records
      have kept := (Hub.keeps_of_records caught).keepsEngine
      rw [eq]
      exact Hub.turn_sound turn ticks (kept.stamps stamps) (kept.queues queues) (sound.of_same_records caught)
  obtain ⟨lists, overdue⟩ := (Hub.listsSound_iff (keeps.stamps stamps)).1 after
  exact ⟨keeps.tokens tokens, keeps.queues queues, keeps.stamps stamps, keeps.tags tags, lists, overdue⟩

end Sys2Proof.Machine
end

section
/-! What a purge leaves of its link (R113): nothing at any slot, and no record. No invariant is needed for it. -/

namespace Sys2Proof.Machine

/-! ### A slot that holds nothing of a link -/

/-- No token of the link is held there, no message claimed by it, and no stamp of `mine` waits there. -/
structure Slot.ClearOf (s : Slot) (l : Link) (mine : Stamp → Bool) : Prop where
  holding : ∀ o r, s.state = .live o → o.part = .resource r → r.holdings.get l = 0
  claims : ∀ o q, s.state.obj = some o → o.part = .queue q → ∀ m ∈ q.messages, m.claimedBy l = false
  waiters : ∀ o, s.state = .live o → ∀ st ∈ o.part.waitList, mine st = false

namespace Slot

theorem clearOf_free {s : Slot} (l : Link) (mine : Stamp → Bool) (free : s.state = .free) : s.ClearOf l mine :=
  ⟨fun _ _ is => by rw [free] at is; (cases is), fun _ _ is => by rw [free] at is; (cases is),
    fun _ is => by rw [free] at is; cases is⟩

theorem clearOf_live {g : Nat} {o : Obj} {l : Link} {mine : Stamp → Bool}
    (holding : ∀ r, o.part = .resource r → r.holdings.get l = 0)
    (claims : ∀ q, o.part = .queue q → ∀ m ∈ q.messages, m.claimedBy l = false)
    (waiters : ∀ st ∈ o.part.waitList, mine st = false) : ({ gen := g, state := .live o } : Slot).ClearOf l mine :=
  ⟨fun _ r is part => by cases is; exact holding r part, fun _ q is part => by cases is; exact claims q part,
    fun _ is => by cases is; exact waiters⟩

theorem clearOf_draining {g : Nat} {o : Obj} {l : Link} {mine : Stamp → Bool}
    (claims : ∀ q, o.part = .queue q → ∀ m ∈ q.messages, m.claimedBy l = false) :
    ({ gen := g, state := .draining o } : Slot).ClearOf l mine :=
  ⟨fun _ _ is => (nomatch is), fun _ q is part => by cases is; exact claims q part, fun _ is => nomatch is⟩

/-- The slot's object gets a part that holds nothing of the link. -/
theorem clearOf_modPart {s : Slot} {o : Obj} {p : Part} {l : Link} {mine : Stamp → Bool} (there : s.state.obj = some o)
    (holding : ∀ r, s.state = .live o → p = .resource r → r.holdings.get l = 0)
    (claims : ∀ q, p = .queue q → ∀ m ∈ q.messages, m.claimedBy l = false)
    (waiters : s.state = .live o → ∀ st ∈ p.waitList, mine st = false) :
    ({ s with state := s.state.modObj fun o => { o with part := p } } : Slot).ClearOf l mine := by
  cases state : s.state with
  | free => rw [state] at there; cases there
  | live x =>
    rw [state] at there
    cases there
    exact clearOf_live (fun r => holding r state) claims (waiters state)
  | draining x => exact clearOf_draining claims

end Slot

theorem Message.claimedBy_claim {m : Message} {c : Claimant} {l : Link} (other : c.link ≠ l) :
    (m.claim c).claimedBy l = false := decide_eq_false other

namespace Hub

/-! ### What the purge leaves of the rest of the hub -/

/-- From `h` to `h'` the records keep their stamps and links, and of the rest only objects, deadlines and links change. -/
structure KeepsFrame (h h' : Hub) : Prop where
  keys : h'.waiters.map Waiter.key = h.waiters.map Waiter.key
  remembered : h'.remembered = h.remembered
  tick : h'.tick = h.tick
  counter : h'.stampCounter = h.stampCounter
  memory : h'.packetMemory = h.packetMemory

theorem KeepsFrame.refl (h : Hub) : h.KeepsFrame h := ⟨rfl, rfl, rfl, rfl, rfl⟩

theorem KeepsFrame.trans {h h' h'' : Hub} (first : h.KeepsFrame h') (second : h'.KeepsFrame h'') : h.KeepsFrame h'' :=
  ⟨second.keys.trans first.keys, second.remembered.trans first.remembered, second.tick.trans first.tick,
    second.counter.trans first.counter, second.memory.trans first.memory⟩

/-- Whose record a stamp is can be told from the keys. -/
theorem KeepsFrame.mine {h h' : Hub} (frame : h.KeepsFrame h') (l : Link) : h'.mine l = h.mine l := by
  have keyed (h : Hub) (st : Stamp) :
      h.mine l st = ((h.waiters.map Waiter.key).find? fun k => k.1 == st).any fun k => decide (k.2.1 = l) := by
    rw [Hub.mine, findWaiter, List.find?_map, Option.any_map]
    rfl
  funext st
  rw [keyed, keyed, frame.keys]

theorem setSlot_frame (h : Hub) (i : Fin 48) (sl : Slot) : h.KeepsFrame (h.setSlot i sl) := ⟨rfl, rfl, rfl, rfl, rfl⟩

theorem endWait_frame (h : Hub) (w : Waiter) (st : WaiterState) (msg : Option Half) : h.KeepsFrame (h.endWait w st msg) := by
  rw [endWait_spec]
  refine ⟨?_, rfl, rfl, rfl, rfl⟩
  rw [List.map_map]
  exact List.map_congr_left fun x _ => by simp only [Function.comp]; split <;> rfl

theorem grant_frame (h : Hub) (w : Waiter) : h.KeepsFrame (h.grant w) :=
  (h.endWait_frame w .granted none).trans ⟨rfl, rfl, rfl, rfl, rfl⟩

theorem deliver_frame (h : Hub) (q : Queue) (w : Waiter) (m : Message) : h.KeepsFrame (h.deliver q w m) :=
  (h.endWait_frame w .granted (some m.seq)).trans ⟨rfl, rfl, rfl, rfl, rfl⟩

/-! ### Grants and deliveries to the other links -/

/-- An operation at slot `i` that leaves the slot clear of the link if it was. -/
structure ClearsAt (l : Link) (mine : Stamp → Bool) (i : Fin 48) (h h' : Hub) : Prop where
  frame : h.KeepsFrame h'
  others : ∀ j, j ≠ i → h'.slot j = h.slot j
  clear : (h.slot i).ClearOf l mine → (h'.slot i).ClearOf l mine

section
variable {l : Link} {mine : Stamp → Bool} {i : Fin 48}

theorem ClearsAt.refl (h : Hub) : ClearsAt l mine i h h := ⟨.refl h, fun _ _ => rfl, id⟩

theorem ClearsAt.trans {h h' h'' : Hub} (first : ClearsAt l mine i h h') (second : ClearsAt l mine i h' h'') :
    ClearsAt l mine i h h'' :=
  ⟨first.frame.trans second.frame, fun j ne => (second.others j ne).trans (first.others j ne),
    fun clear => second.clear (first.clear clear)⟩

/-- All slots stay clear. -/
theorem ClearsAt.all {h h' : Hub} (clears : ClearsAt l mine i h h') (j : Fin 48) (clear : (h.slot j).ClearOf l mine) :
    (h'.slot j).ClearOf l mine := by
  by_cases is : j = i
  · subst is; exact clears.clear clear
  · rw [clears.others j is]; exact clear

theorem link_ne_of_mine {h : Hub} {st : Stamp} {w : Waiter} (other : h.mine l st = false) (found : h.findWaiter st = some w) :
    w.link ≠ l := by
  rw [Hub.mine, found] at other
  exact of_decide_eq_false other

/-- The part of a slot set, with a change of the records that leaves the frame. -/
theorem clearsAt_setPart {h h' : Hub} {p : Part} (slots : h'.slots = (h.setPart i p).slots) (frame : (h.setPart i p).KeepsFrame h')
    (clear : (h.slot i).ClearOf l mine →
      ({ h.slot i with state := (h.slot i).state.modObj fun o => { o with part := p } } : Slot).ClearOf l mine) :
    ClearsAt l mine i h h' := by
  refine ⟨(h.setSlot_frame i _).trans frame, fun j ne => ?_, fun before => ?_⟩
  · rw [slot_of_slots slots]; exact slot_setSlot_other h _ (Ne.symm ne)
  · rw [slot_of_slots slots, setPart, modObj, slot_setSlot_self]; exact clear before

theorem grant_clears {h : Hub} {o : Obj} {p : Part} {w : Waiter} (there : h.objAt i = some o)
    (grants : grantedPart w o.part = some p) (other : w.link ≠ l) : ClearsAt l mine i h ((h.setPart i p).grant w) := by
  refine clearsAt_setPart (grant_slots _ w) (grant_frame _ w) fun before => ?_
  have list := waitList_grantedPart grants
  refine Slot.clearOf_modPart there (fun r live is => ?_) (fun q is => ?_) fun live st mem => ?_
  · obtain ⟨r', part, held⟩ : ∃ r', o.part = .resource r' ∧ r.holdings.get l = r'.holdings.get l := by
      subst is
      cases part : o.part <;> simp only [part, grantedPart, Option.ite_none_right_eq_some, Option.some.injEq, reduceCtorEq,
        and_false, Part.resource.injEq] at grants
      rename_i r'
      obtain ⟨-, rfl⟩ := grants
      exact ⟨r', rfl, PerLink.get_set_other _ _ (Ne.symm other)⟩
    rw [held]; exact before.holding o r' live part
  · obtain ⟨q', part, -⟩ := (Part.keeps_granted grants).queue q is
    rw [part] at grants
    cases grants
  · rw [list] at mem; exact before.waiters o live st (List.mem_of_mem_tail mem)

theorem grantList_clears (sts : List Stamp) : ∀ {h : Hub}, (∀ st ∈ sts, h.mine l st = false) →
    ClearsAt l mine i h (grantList i sts h) := by
  induction sts with
  | nil => exact fun _ => .refl _
  | cons st sts ih =>
    intro h others
    rw [grantList]
    split
    · rename_i granted
      unfold grantHead at granted
      split at granted
      · rename_i o w there found
        obtain ⟨p, grants, rfl⟩ := Option.map_eq_some_iff.1 granted
        have clears : ClearsAt l mine i h ((h.setPart i p).grant w) :=
          grant_clears there grants (link_ne_of_mine (others st List.mem_cons_self) found)
        exact clears.trans (ih fun x mem => by rw [clears.frame.mine]; exact others x (List.mem_cons_of_mem _ mem))
      · cases granted
    · exact .refl h

theorem grantPass_clears {h : Hub} (others : ∀ st ∈ h.waitListAt i, h.mine l st = false) : ClearsAt l mine i h (h.grantPass i) :=
  grantList_clears _ others

theorem handOut_clears (sts : List Stamp) : ∀ {h : Hub}, (∀ st ∈ sts, h.mine l st = false) →
    ClearsAt l mine i h (handOut i sts h) := by
  induction sts with
  | nil => exact fun _ => .refl _
  | cons st sts ih =>
    intro h others
    rcases handOut_cons i st sts h with ⟨same, -⟩ | ⟨o, q, w, m, ms, there, part, found, claims, eq⟩
    · rw [same]; exact .refl h
    · have other := link_ne_of_mine (others st List.mem_cons_self) found
      have clears : ClearsAt l mine i h ((h.setPart i (.queue { q with messages := ms, waitList := q.waitList.tail })).deliver
          { q with messages := ms, waitList := q.waitList.tail } w m) := by
        refine clearsAt_setPart (deliver_slots _ _ w m) (deliver_frame _ _ w m) fun before => ?_
        refine Slot.clearOf_modPart there (fun r _ is => nomatch is) (fun q' is x mem => ?_) fun live x mem => ?_
        · cases is
          rcases Queue.claimOldest_spec ⟨w.link, w.session, .notice⟩ q.messages with
            ⟨-, no⟩ | ⟨older, m', newer, messages, -, -, -, some⟩
          · rw [no] at claims; cases claims
          · obtain ⟨-, rfl⟩ := Prod.mk.inj (Option.some.inj (some.symm.trans claims))
            have unclaimed := before.claims o q there part
            rw [messages] at unclaimed
            simp only [List.mem_append, List.mem_cons] at mem unclaimed
            rcases mem with old | rfl | new
            · exact unclaimed x (Or.inl old)
            · exact Message.claimedBy_claim other
            · exact unclaimed x (Or.inr (Or.inr new))
        · refine before.waiters o live x ?_
          rw [part]; exact List.mem_of_mem_tail mem
      rw [eq]
      exact clears.trans (ih fun x mem => by rw [clears.frame.mine]; exact others x (List.mem_cons_of_mem _ mem))

end

/-! ### The purge at one slot -/

theorem claimedBy_withdrawn {q : Queue} {l : Link} {next : MessageState} (free : ∀ c, next ≠ .claimed c) {m : Message}
    (mem : m ∈ (q.withdrawClaims l next).reclaim.messages) : m.claimedBy l = false := by
  obtain ⟨x, -, rfl⟩ := List.mem_map.1 (Queue.mem_reclaim mem)
  split
  · cases next with
    | claimed c => exact absurd rfl (free c)
    | ready | spent => rfl
  · exact Bool.eq_false_iff.2 ‹_›

theorem mine_of_kept {h : Hub} {l : Link} {ws : List Stamp} {st : Stamp} (mem : st ∈ h.kept l ws) : h.mine l st = false := by
  simpa using (List.mem_filter.1 mem).2

/-- From `h` to `h'` the purge has visited slot `i`, and left nothing of the link there. -/
structure Cleared (l : Link) (i : Fin 48) (h h' : Hub) : Prop where
  frame : h.KeepsFrame h'
  others : ∀ j, j ≠ i → h'.slot j = h.slot j
  clear : (h'.slot i).ClearOf l (h.mine l)

theorem Cleared.andThen {l : Link} {i : Fin 48} {h h' h'' : Hub} (first : Cleared l i h h')
    (second : ClearsAt l (h.mine l) i h' h'') : Cleared l i h h'' :=
  ⟨first.frame.trans second.frame, fun j ne => (second.others j ne).trans (first.others j ne), second.clear first.clear⟩

/-- The part of a LIVE slot set once the link's entries are removed. -/
theorem cleared_setLive {h : Hub} {i : Fin 48} {o : Obj} {p : Part} {l : Link} {ws : List Stamp} (list : p.waitList = h.kept l ws)
    (holding : ∀ r, p = .resource r → r.holdings.get l = 0)
    (claims : ∀ q, p = .queue q → ∀ m ∈ q.messages, m.claimedBy l = false) :
    Cleared l i h ((h.without l ws).setLive i o p) ∧
      ∀ st ∈ p.waitList, ((h.without l ws).setLive i o p).mine l st = false := by
  refine ⟨⟨⟨rfl, rfl, rfl, rfl, rfl⟩, fun j ne => slot_setSlot_other _ _ (Ne.symm ne), ?_⟩, fun st mem => ?_⟩
  · rw [slot_setLive_self]
    exact Slot.clearOf_live holding claims fun st mem => mine_of_kept (list ▸ mem)
  · exact mine_of_kept (h := h) (list ▸ mem)

theorem cleared_pass {h after : Hub} {i : Fin 48} {l : Link} (cleared : Cleared l i h after) (same : Prop) [Decidable same]
    (others : ∀ st ∈ after.waitListAt i, after.mine l st = false) :
    Cleared l i h (if same then after else after.grantPass i) := by
  split
  · exact cleared
  · exact cleared.andThen (grantPass_clears others)

theorem purgeSlot_clears (l : Link) (h : Hub) (i : Fin 48) : Cleared l i h (purgeSlot l h i).1 := by
  cases state : (h.slot i).state with
  | free =>
    simp only [purgeSlot, state]
    exact ⟨.refl h, fun _ _ => rfl, Slot.clearOf_free l _ state⟩
  | live o =>
    cases part : o.part with
    | resource r =>
      rw [purgeSlot_resource l state part]
      obtain ⟨cleared, others⟩ := cleared_setLive (h := h) (i := i) (o := o) (l := l) (ws := r.waitList)
        (p := .resource { Resource.purgeHolding r l with waitList := h.kept l r.waitList }) rfl
        (fun x is => by cases is; rw [r.purgeHolding_eq]; exact PerLink.get_set_self _ _ _) fun x is => nomatch is
      exact cleared_pass cleared _ (by rw [waitListAt_setLive_self]; exact others)
    | signal g =>
      rw [purgeSlot_signal l state part]
      obtain ⟨cleared, others⟩ := cleared_setLive (h := h) (i := i) (o := o) (l := l) (ws := g.waitList)
        (p := .signal { g with waitList := h.kept l g.waitList }) rfl (fun x is => nomatch is) fun x is => nomatch is
      exact cleared_pass cleared _ (by rw [waitListAt_setLive_self]; exact others)
    | queue q =>
      rw [purgeSlot_liveQueue l state part]
      obtain ⟨cleared, others⟩ := cleared_setLive (h := h) (i := i) (o := o) (l := l) (ws := q.waitList)
        (p := .queue { (q.withdrawClaims l .ready).reclaim with waitList := h.kept l q.waitList }) rfl (fun x is => nomatch is)
        fun x is m mem => by cases is; exact claimedBy_withdrawn (next := .ready) (fun c is => nomatch is) mem
      exact cleared.andThen (handOut_clears _ others)
  | draining o =>
    cases part : o.part with
    | resource r | signal g =>
      simp only [purgeSlot, state, part]
      refine ⟨.refl h, fun _ _ => rfl, fun x r is => ?_, fun x q is queue => ?_, fun x is => ?_⟩
      · rw [state] at is; cases is
      · rw [state] at is; cases is; rw [part] at queue; cases queue
      · rw [state] at is; cases is
    | queue q =>
      rw [purgeSlot_drainingQueue l state part]
      refine ⟨⟨rfl, rfl, rfl, rfl, rfl⟩, fun j ne => slot_setSlot_other _ _ (Ne.symm ne), ?_⟩
      dsimp only
      rw [slot_setSlot_self]
      split
      · exact Slot.clearOf_free l _ rfl
      · refine Slot.clearOf_draining fun x is m mem => ?_
        cases is
        exact claimedBy_withdrawn (next := .spent) (fun c is => nomatch is) mem

/-! ### The whole purge -/

/-- The visit leaves each slot of the list clear of the link. -/
theorem purgeSlots_clears (l : Link) (is : List (Fin 48)) : ∀ h : Hub, h.KeepsFrame (purgeSlots l is h).1 ∧
    ∀ j, j ∈ is ∨ (h.slot j).ClearOf l (h.mine l) → ((purgeSlots l is h).1.slot j).ClearOf l (h.mine l) := by
  induction is with
  | nil => exact fun h => ⟨.refl h, fun j clear => clear.resolve_left List.not_mem_nil⟩
  | cons i is ih =>
    intro h
    obtain ⟨frame, others, clear⟩ := purgeSlot_clears l h i
    obtain ⟨frame', clears⟩ := ih (purgeSlot l h i).1
    rw [frame.mine] at clears
    refine ⟨frame.trans frame', fun j given => clears j ?_⟩
    by_cases is : j = i
    · exact Or.inr (is ▸ clear)
    · rw [others j is]
      exact given.imp_left fun mem => (List.mem_cons.1 mem).resolve_left is

/-- A companion signalling once no record of the link is left. -/
theorem signalCompanion_clears {h : Hub} {l : Link} (mine : Stamp → Bool) (gone : ∀ st, h.mine l st = false) (hd : Handle) :
    h.KeepsFrame (h.signalCompanion hd) ∧
      ∀ j, (h.slot j).ClearOf l mine → ((h.signalCompanion hd).slot j).ClearOf l mine := by
  rcases h.signalCompanion_cases hd with same | ⟨i, o, g, -, there, part, -, eq⟩
  · rw [same]; exact ⟨.refl h, fun _ => id⟩
  · have counted : ClearsAt l mine i h (h.setPart i (.signal { g with count := g.count + 1 })) :=
      clearsAt_setPart rfl (.refl _) fun before => Slot.clearOf_modPart there (fun r _ is => nomatch is)
        (fun q is => nomatch is) fun live => by have list := before.waiters o live; rw [part] at list; exact list
    have clears := counted.trans (grantPass_clears fun st _ => by rw [counted.frame.mine]; exact gone st)
    rw [eq]
    exact ⟨clears.frame, clears.all⟩

theorem signalCompanions_clears (l : Link) (mine : Stamp → Bool) (hds : List Handle) : ∀ h : Hub,
    (∀ st, h.mine l st = false) → h.KeepsFrame (hds.foldl signalCompanion h) ∧
      ∀ j, (h.slot j).ClearOf l mine → ((hds.foldl signalCompanion h).slot j).ClearOf l mine := by
  induction hds with
  | nil => exact fun h _ => ⟨.refl h, fun _ => id⟩
  | cons hd hds ih =>
    intro h gone
    obtain ⟨frame, clears⟩ := signalCompanion_clears mine gone hd
    obtain ⟨frame', clears'⟩ := ih (h.signalCompanion hd) fun st => by rw [frame.mine]; exact gone st
    exact ⟨frame.trans frame', fun j clear => clears' j (clears j clear)⟩

theorem session_leaveEnding (h : Hub) (l : Link) : ((h.leaveEnding l).link l).session ≠ .ending := by
  unfold leaveEnding
  rcases (h.link l).heldHello with _ | he
  · simp
  · dsimp only
    split
    · simp [LinkState.overrun]
    · unfold answerHello
      split <;> simp [beginSession, linkAnswer, LinkState.takeSlot]

theorem session_purgeCompletion (h : Hub) (l : Link) : ((h.purgeCompletion l).link l).session ≠ .ending := by
  unfold purgeCompletion
  split
  · exact h.session_leaveEnding l
  · assumption

theorem purgeCompletion_frame (h : Hub) (l : Link) : h.purgeCompletion l = { h with links := (h.purgeCompletion l).links } := by
  unfold purgeCompletion
  split
  · exact h.leaveEnding_frame l
  · rfl

/-- Without the link's records no stamp is one of theirs. -/
theorem mine_without_records (h : Hub) (l : Link) (st : Stamp) :
    Hub.mine { h with waiters := h.waiters.filter fun w => w.link ≠ l } l st = false := by
  unfold mine
  rcases found : findWaiter { h with waiters := h.waiters.filter fun w => w.link ≠ l } st with _ | w
  · rfl
  · exact decide_eq_false (of_decide_eq_true (List.mem_filter.1 (findWaiter_some found).1).2)

theorem keys_ofOthers (ws : List Waiter) (l : Link) : (ws.filter fun w => decide (w.link ≠ l)).map Waiter.key =
    (ws.map Waiter.key).filter fun k => decide (k.2.1 ≠ l) := by rw [List.filter_map]; rfl

/-- What a purge leaves of the link at the slots, of the records, and of the rest of the hub. -/
structure Purged (l : Link) (h h' : Hub) : Prop where
  slots : ∀ j, (h'.slot j).ClearOf l (h.mine l)
  keys : h'.waiters.map Waiter.key = (h.waiters.filter fun w => decide (w.link ≠ l)).map Waiter.key
  remembered : h'.remembered = h.remembered
  tick : h'.tick = h.tick
  counter : h'.stampCounter = h.stampCounter
  memory : h'.packetMemory = h.packetMemory
  session : (h'.link l).session ≠ .ending

theorem purge_purged (h : Hub) (l : Link) : Purged l h (h.purge l) := by
  obtain ⟨frame, visited⟩ := purgeSlots_clears l slotNumbers h
  replace visited := fun j => visited j (Or.inl (List.mem_finRange j))
  unfold purge
  dsimp only
  generalize purgeSlots l slotNumbers h = v at frame visited ⊢
  obtain ⟨signalled, clears⟩ := signalCompanions_clears l (h.mine l) v.2 _ (v.1.mine_without_records l)
  generalize v.2.foldl signalCompanion _ = h' at signalled clears ⊢
  have ended := h'.session_purgeCompletion l
  rw [purgeCompletion_frame] at ended ⊢
  refine ⟨fun j => clears j (visited j), ?_, signalled.remembered.trans frame.remembered, signalled.tick.trans frame.tick,
    signalled.counter.trans frame.counter, signalled.memory.trans frame.memory, ended⟩
  rw [keys_ofOthers, ← frame.keys, ← keys_ofOthers]
  exact signalled.keys

theorem Purged.stamps {l : Link} {h h' : Hub} (purged : Purged l h h') :
    h'.waiters.map Waiter.stamp = (h.waiters.filter fun w => decide (w.link ≠ l)).map Waiter.stamp := by
  have stamps := congrArg (List.map Prod.fst) purged.keys
  rwa [List.map_map, List.map_map] at stamps

theorem Purged.noRecord {l : Link} {h h' : Hub} (purged : Purged l h h') (w : Waiter) (mem : w ∈ h'.waiters) : w.link ≠ l := by
  have key := List.mem_map_of_mem (f := Waiter.key) mem
  rw [purged.keys, keys_ofOthers] at key
  exact of_decide_eq_true (List.mem_filter.1 key).2

end Hub

/-- Settles O47: the steps of a purge in their order, and what they leave. -/
theorem purgeLeavesNothingOfTheLink : Obligations.PurgeLeavesNothingOfTheLink := by
  intro s l h given
  have run : exec .purge s = .next (s.withHub ((h.takeFrom l).purge l)) := exec_purge given
  clear_value h
  refine ⟨run.trans (by rw [Hub.purge_eq]; rfl), _, run, rfl, ?_⟩
  have purged : Hub.Purged l (h.takeFrom l) ((h.takeFrom l).purge l) := (h.takeFrom l).purge_purged l
  generalize (h.takeFrom l).purge l = h' at purged
  refine ⟨purged.noRecord, purged.stamps, fun i => (purged.slots i).holding, fun i o q there part m mem session c claimed => ?_,
    fun i o st w live mem found => Hub.link_ne_of_mine (h := h.takeFrom l) ((purged.slots i).waiters o live st mem) found,
    fun _ => purged.session, purged.remembered, purged.tick, purged.counter, purged.memory⟩
  have unclaimed := (purged.slots i).claims o q there part m mem
  simp [Message.claimedBy, claimed] at unclaimed

end Sys2Proof.Machine
end

section
/-! The hand-out (R89): one turn of it, by whether a message is READY. -/

namespace Sys2Proof.Machine

theorem saturate8_eq_min (n : Nat) : saturate8 n = min (n + 1) 255 := by
  unfold saturate8; split <;> omega

namespace Queue

/-- The oldest READY message is the one that is claimed (R89). -/
theorem claimOldest_oldest (c : Claimant) {older : List Message} {m : Message} (newer : List Message)
    (before : ∀ x ∈ older, x.state ≠ .ready) (ready : m.state = .ready) :
    claimOldest c (older ++ m :: newer) = some (m.claim c, older ++ m.claim c :: newer) := by
  induction older with
  | nil => simp [claimOldest, Message.isReady_eq, ready]
  | cons x older ih =>
    have unready : x.state ≠ .ready := before x List.mem_cons_self
    simp [claimOldest, Message.isReady_eq, unready, ih fun y mem => before y (List.mem_cons_of_mem _ mem)]

/-- What is read depends on the area alone, not on the lists of the queue. -/
theorem readBytes_area {q q' : Queue} (base : q'.base = q.base) (blocks : q'.blocks = q.blocks) (m : Memory) (off n : Nat) :
    q'.readBytes m off n = q.readBytes m off n := by
  induction n generalizing off with
  | zero => rfl
  | succ n ih => simp only [readBytes, address, base, blocks, ih]

end Queue

namespace Hub

/-- A delivery looks at the area of the queue alone. -/
theorem deliver_area {q q' : Queue} (h : Hub) (base : q'.base = q.base) (blocks : q'.blocks = q.blocks) (w : Waiter)
    (m : Message) : h.deliver q' w m = h.deliver q w m := by
  simp only [deliver, Queue.payload, Queue.readBytes_area base blocks]

/-- With no message READY the hand-out does nothing. -/
theorem handOut_unready {h : Hub} {i : Fin 48} {o : Obj} {q : Queue} (st : Stamp) (rest : List Stamp)
    (there : h.objAt i = some o) (part : o.part = .queue q) (unready : q.readyCount = 0) :
    handOut i (st :: rest) h = h := by
  rcases handOut_cons i st rest h with ⟨same, -⟩ | ⟨o', q', w, m, ms, there', part', -, claims, -⟩
  · exact same
  · cases there.symm.trans there'
    cases part.symm.trans part'
    exact absurd unready (Nat.ne_of_gt (readyCount_pos_of_claim claims))

/-- With a message READY the head waiter gets the oldest one, and the hand-out goes on with the rest. -/
theorem handOut_ready {h : Hub} {i : Fin 48} {o : Obj} {q : Queue} {st : Stamp} {w : Waiter} {older newer : List Message}
    {m : Message} (rest : List Stamp) (there : h.objAt i = some o) (part : o.part = .queue q) (found : h.findWaiter st = some w)
    (messages : q.messages = older ++ m :: newer) (before : ∀ x ∈ older, x.state ≠ .ready) (ready : m.state = .ready) :
    let m' := m.claim ⟨w.link, w.session, .notice⟩
    let q' : Queue := { q with messages := older ++ m' :: newer, waitList := q.waitList.tail }
    handOut i (st :: rest) h = handOut i rest ((h.setPart i (.queue q')).deliver q w m') := by
  intro m' q'
  have claims := Queue.claimOldest_oldest ⟨w.link, w.session, .notice⟩ newer before ready
  rw [← messages] at claims
  simp only [handOut, there, Option.bind_some, part, Part.queue?, found, claims]
  exact congrArg (handOut i rest) (deliver_area (q := q) (q' := q') _ rfl rfl w m')

/-- A delivery: the record and its deadline entry, and the DELIVER notice with the payload (R55). -/
theorem deliver_eq (h : Hub) (q : Queue) (w : Waiter) (m : Message) :
    h.deliver q w m =
      ({ h with
          waiters := h.waiters.map (fun x =>
            if x.stamp = w.stamp then { x with state := .granted, message := some m.seq } else x),
          deadlines := if w.deadline = none then h.deadlines
            else h.deadlines.filter (fun e => decide (e.stamp ≠ w.stamp)) } : Hub).notice w 0xC1
        ([byteOf w.object.gen, byteOf w.object.slot] ++ bytes16 m.seq.toNat ++ [byteOf m.deliveries] ++ bytes16 m.length ++
          q.readBytes h.packetMemory (m.offset + 4) m.length)
        (some { queue := w.object, seq := m.seq }) := by
  simp only [deliver, endWait_spec, payloadBody, Queue.payload, Queue.length_readBytes]
  rfl

end Hub

/-- Settles O49: one turn of the hand-out claims the oldest READY message and delivers it. -/
theorem handOutServesWaitersInOrder : Obligations.HandOutServesWaitersInOrder := by
  refine ⟨fun _ _ => rfl, fun h i o q st rest w there part list found =>
    ⟨fun unready => Hub.handOut_unready st rest there part unready, fun older m newer messages before ready => ?_⟩⟩
  have tail : q.waitList.tail = rest := by rw [list]; rfl
  intro m'
  have claimed : m.claim ⟨w.link, w.session, .notice⟩ = m' := by rw [Message.claim, saturate8_eq_min]
  rw [Hub.handOut_ready rest there part found messages before ready, claimed, tail, Hub.deliver_eq]
  rfl

end Sys2Proof.Machine
end

section
/-! The making of a waiter (R48): the record and its place, the tick events within the item, and the claim for its deadline. -/

namespace Sys2Proof.Machine
namespace Hub

/-- The claim of an entry, where there is a deadline (R97). -/
def claimFor (h : Hub) (st : Stamp) : Option Tick → Hub
  | none => h
  | some d => h.insertClaim { stamp := st, deadline := d }

/-- The hub in which the claim is made: as the item finds it, or after the tick events within the item (R97; log entry 27). -/
def ticked (h : Hub) (ticks timeout : Nat) : Hub := if timeout = 65535 then h else h.tickEvents ticks

/-- The hub with a new waiter's record and its place in the wait list, before its claim. -/
def recorded (h : Hub) (ticks timeout : Nat) (i : Fin 48) (ws : List Stamp) (w : Waiter) : Hub :=
  { h.ticked ticks timeout with
    stampCounter := h.stampCounter + 1, slots := (h.setWaitListAt i ws).slots, waiters := h.waiters ++ [w] }

theorem insertClaim_cases (h : Hub) (e : DeadlineEntry) :
    ((tickDue e.deadline h.tick = true ∧ h.expiryIntake.length < 96) ∧
      h.insertClaim e = { h with expiryIntake := h.expiryIntake ++ [e.stamp] }) ∨
    (¬ (tickDue e.deadline h.tick = true ∧ h.expiryIntake.length < 96) ∧
      h.insertClaim e = { h with deadlines := insertDeadline e h.deadlines }) := by
  have taken : (tickDue e.deadline h.tick && decide (h.expiryIntake.length < Config.expiryPlaces)) = true ↔
      tickDue e.deadline h.tick = true ∧ h.expiryIntake.length < 96 := by
    rw [Bool.and_eq_true, decide_eq_true_iff]; exact Iff.rfl
  by_cases due : tickDue e.deadline h.tick = true ∧ h.expiryIntake.length < 96
  · exact Or.inl ⟨due, if_pos (taken.2 due)⟩
  · exact Or.inr ⟨due, if_neg (mt taken.1 due)⟩

theorem claimFor_frame (h : Hub) (st : Stamp) (deadline : Option Tick) :
    h.claimFor st deadline =
      { h with deadlines := (h.claimFor st deadline).deadlines, expiryIntake := (h.claimFor st deadline).expiryIntake } := by
  cases deadline with
  | none => rfl
  | some d => rcases h.insertClaim_cases ⟨st, d⟩ with ⟨-, eq⟩ | ⟨-, eq⟩ <;> rw [claimFor, eq]

@[simp] theorem claimFor_waiters (h : Hub) (st : Stamp) (deadline : Option Tick) :
    (h.claimFor st deadline).waiters = h.waiters := by rw [claimFor_frame]
@[simp] theorem claimFor_slots (h : Hub) (st : Stamp) (deadline : Option Tick) :
    (h.claimFor st deadline).slots = h.slots := by rw [claimFor_frame]

theorem makeWaiter_eq (h : Hub) (ticks : Nat) (l : Link) (rq : Request) (hd : Handle) (i : Fin 48) (d : Discipline) (op : WaitOp)
    (amount priority timeout : Nat) :
    h.makeWaiter ticks l rq hd i d op amount priority timeout =
      ((h.recorded ticks timeout i (h.insertWaiter d priority (h.stampCounter + 1) (h.waitListAt i))
        (h.newWaiter l rq hd op amount priority timeout)).claimFor (h.stampCounter + 1) (deadlineOf h.tick timeout)).reply
          l rq .waiting [] none := by
  have placed (ws : List Stamp) (w : Waiter) :
      ({ h with stampCounter := h.stampCounter + 1, waiters := h.waiters ++ [w] } : Hub).setWaitListAt i ws =
        { h with stampCounter := h.stampCounter + 1, slots := (h.setWaitListAt i ws).slots, waiters := h.waiters ++ [w] } := rfl
  by_cases absent : timeout = 65535
  · simp only [makeWaiter, placed, recorded, ticked, newWaiter, deadlineOf, if_pos absent, claimFor]
  · simp only [makeWaiter, placed, recorded, ticked, newWaiter, deadlineOf, if_neg absent, claimFor, tickEvents_engine]

end Hub

/-- Settles O34: the record and its place come first, then the tick events, then the claim, then the response. -/
theorem waiterIsMade : Obligations.WaiterIsMade := by
  intro h l rq hd i o op amount priority timeout ticks there st deadline g
  obtain ⟨before, behind, was, is, arrival, urgent⟩ := h.insertWaiter_spec o.discipline priority st (h.waitListAt i)
  have made := h.makeWaiter_eq ticks l rq hd i o.discipline op amount priority timeout
  rw [is] at made
  let new := h.recorded ticks timeout i (before ++ st :: behind) (h.newWaiter l rq hd op amount priority timeout)
  have slot (j : Fin 48) : (new.claimFor st deadline).slot j = (h.setWaitListAt i (before ++ st :: behind)).slot j :=
    Hub.slot_of_slots (new.claimFor_slots st deadline) j
  refine ⟨new.claimFor st deadline, before, behind, made, ?_, new.claimFor_waiters st deadline, fun j ne => ?_, ?_, was, arrival,
    urgent, ?_⟩
  · rw [new.claimFor_waiters, new.claimFor_slots]
    exact new.claimFor_frame st deadline
  · rw [slot]; exact Hub.slot_setSlot_other h _ (Ne.symm ne)
  · rw [slot]; exact Hub.slot_setSlot_self h i _
  · cases deadline with
    | none => exact ⟨rfl, rfl⟩
    | some d =>
      rcases new.insertClaim_cases ⟨st, d⟩ with ⟨due, eq⟩ | ⟨notDue, eq⟩
      · have due : tickDue d g.tick = true ∧ g.expiryIntake.length < 96 := due
        simp only [Hub.claimFor, eq, if_pos due]
        exact ⟨rfl, rfl⟩
      · have notDue : ¬ (tickDue d g.tick = true ∧ g.expiryIntake.length < 96) := notDue
        simp only [Hub.claimFor, eq, if_neg notDue]
        exact ⟨rfl, Hub.insertDeadline_spec _ _⟩

end Sys2Proof.Machine
end

section
/-! The deadline list and intake T against the records (R96 to R100): what the end of a wait, the freeing of a record and the moving
of due entries leave of them. -/

namespace Sys2Proof.Machine
namespace Hub

/-! ### The entries and the records -/

/-- The stamps that have an entry, in the list or moved to intake T. -/
def entered (h : Hub) : List Stamp := h.deadlines.map DeadlineEntry.stamp ++ h.expiryIntake

/-- The deadline list and intake T are sound, where of the WAITING records those that `keep` holds of have their entries: within a
purge or an expiry some of the entries have gone before their records. The bound on the list follows from that on the records. -/
structure Clocked (h : Hub) (keep : Waiter → Prop) : Prop where
  once : h.entered.Nodup
  room : h.expiryIntake.length ≤ 96
  old : ∀ st ∈ h.expiryIntake, st ≤ h.stampCounter
  waits : ∀ e ∈ h.deadlines, ∃ w, h.Waiting w ∧ w.stamp = e.stamp ∧ w.deadline = some e.deadline
  entry : ∀ w, h.Waiting w → keep w → w.deadline ≠ none → w.stamp ∈ h.entered

theorem DeadlinesSound.clocked {h : Hub} (sound : h.DeadlinesSound) : h.Clocked everyone := by
  obtain ⟨once, -, room, old, waits, entry⟩ := sound
  refine ⟨once, room, old, fun e mem => ?_, fun w waiting _ some => entry w waiting.1 waiting.2 some⟩
  obtain ⟨w, mem, stamp, waiting, deadline⟩ := waits e mem
  exact ⟨w, ⟨mem, waiting⟩, stamp, deadline⟩

/-- Each record is owned by one of the four links. -/
theorem length_waiters (h : Hub) : h.waiters.length = h.owned .a + h.owned .b + h.owned .c + h.owned .d := by
  unfold owned
  induction h.waiters with
  | nil => rfl
  | cons w ws ih =>
    simp only [List.length_cons, List.countP_cons, ih]
    cases w.link <;> simp <;> omega

/-- The entries of distinct records are at most as many as the records, so at most 96 (R46, R96). -/
theorem Clocked.few {h : Hub} {keep : Waiter → Prop} (clocked : h.Clocked keep) (tags : h.TagsDistinct) :
    h.deadlines.length ≤ 96 := by
  have nodup : (h.deadlines.map DeadlineEntry.stamp).Nodup := (List.nodup_append.1 clocked.once).1
  have subset : h.deadlines.map DeadlineEntry.stamp ⊆ h.waiters.map Waiter.stamp := fun st mem => by
    obtain ⟨e, entry, rfl⟩ := List.mem_map.1 mem
    obtain ⟨w, waiting, stamp, -⟩ := clocked.waits e entry
    exact stamp ▸ List.mem_map_of_mem waiting.1
  have le := (List.subperm_of_subset nodup subset).length_le
  have owned (l : Link) : h.owned l ≤ 24 := (tags l).2
  have a := owned .a
  have b := owned .b
  have c := owned .c
  have d := owned .d
  rw [List.length_map, List.length_map, length_waiters] at le
  omega

theorem Clocked.deadlinesSound {h : Hub} (clocked : h.Clocked everyone) (tags : h.TagsDistinct) : h.DeadlinesSound := by
  refine ⟨clocked.once, clocked.few tags, clocked.room, clocked.old, fun e mem => ?_,
    fun w mem waiting some => clocked.entry w ⟨mem, waiting⟩ trivial some⟩
  obtain ⟨w, ⟨mem, waiting⟩, stamp, deadline⟩ := clocked.waits e mem
  exact ⟨w, mem, stamp, waiting, deadline⟩

/-- The same records wait, and the list and intake T are the same. -/
theorem Clocked.of_same {h h' : Hub} {keep : Waiter → Prop} (clocked : h.Clocked keep)
    (waiting : ∀ w, h'.Waiting w ↔ h.Waiting w) (deadlines : h'.deadlines = h.deadlines)
    (intake : h'.expiryIntake = h.expiryIntake) (counter : h'.stampCounter = h.stampCounter) : h'.Clocked keep := by
  obtain ⟨once, room, old, waits, entry⟩ := clocked
  have entered : h'.entered = h.entered := by rw [Hub.entered, Hub.entered, deadlines, intake]
  refine ⟨entered ▸ once, intake ▸ room, by rw [intake, counter]; exact old, fun e mem => ?_, fun w waits => ?_⟩
  · obtain ⟨w, waits, same⟩ := waits e (deadlines ▸ mem)
    exact ⟨w, (waiting w).2 waits, same⟩
  · rw [entered]; exact entry w ((waiting w).1 waits)

/-- A record stops waiting, and its entry leaves the list. -/
theorem Clocked.leave {h h' : Hub} {keep : Waiter → Prop} {st : Stamp} (clocked : h.Clocked keep)
    (waiting : ∀ x, h'.Waiting x ↔ h.Waiting x ∧ x.stamp ∉ [st])
    (deadlines : h'.deadlines = h.deadlines.filter fun e => decide (e.stamp ≠ st))
    (intake : h'.expiryIntake = h.expiryIntake) (counter : h'.stampCounter = h.stampCounter) : h'.Clocked keep := by
  obtain ⟨once, room, old, waits, entry⟩ := clocked
  refine ⟨?_, intake ▸ room, by rw [intake, counter]; exact old, fun e mem => ?_, fun w waits kept some => ?_⟩
  · rw [entered, deadlines, intake]
    exact once.sublist ((List.filter_sublist.map _).append_right _)
  · rw [deadlines, List.mem_filter, decide_eq_true_iff] at mem
    obtain ⟨w, waits, stamp, deadline⟩ := waits e mem.1
    exact ⟨w, (waiting w).2 ⟨waits, by rw [stamp, List.mem_singleton]; exact mem.2⟩, stamp, deadline⟩
  · obtain ⟨was, other⟩ := (waiting w).1 waits
    rw [List.mem_singleton] at other
    rw [entered, deadlines, intake]
    rcases List.mem_append.1 (entry w was kept some) with mem | mem
    · obtain ⟨e, mem, stamp⟩ := List.mem_map.1 mem
      exact List.mem_append_left _ (List.mem_map.2 ⟨e, List.mem_filter.2 ⟨mem, decide_eq_true (stamp ▸ other)⟩, stamp⟩)
    · exact List.mem_append_right _ mem

/-- A record without a deadline has no entry in the list (R96). -/
theorem Clocked.no_entry {h : Hub} {keep : Waiter → Prop} {w : Waiter} (clocked : h.Clocked keep) (distinct : h.StampsDistinct)
    (mem : w ∈ h.waiters) (none : w.deadline = none) : ∀ e ∈ h.deadlines, e.stamp ≠ w.stamp := by
  intro e entry stamp
  obtain ⟨x, waiting, same, deadline⟩ := clocked.waits e entry
  cases eq_of_stamp distinct waiting.1 mem (same.trans stamp)
  cases none.symm.trans deadline

/-- A removal that is claimed only where the record has a deadline leaves no entry of it in any case. -/
theorem Clocked.removed {h : Hub} {keep : Waiter → Prop} {w : Waiter} (clocked : h.Clocked keep) (distinct : h.StampsDistinct)
    (mem : w ∈ h.waiters) :
    (if w.deadline = none then h.deadlines else h.deadlines.filter fun e => decide (e.stamp ≠ w.stamp)) =
      h.deadlines.filter fun e => decide (e.stamp ≠ w.stamp) := by
  split
  · rename_i none
    exact (List.filter_eq_self.2 fun e entry => decide_eq_true (clocked.no_entry distinct mem none e entry)).symm
  · rfl

/-! ### Operations that claim no entry -/

/-- From `h` to `h'` entries do no more than leave the deadline list, and the list and intake T stay sound. -/
structure KeepsClock (keep : Waiter → Prop) (h h' : Hub) : Prop where
  stamps : h.StampsDistinct → h'.StampsDistinct
  entries : h'.deadlines.Sublist h.deadlines
  clocked : h.StampsDistinct → h.Clocked keep → h'.Clocked keep

theorem KeepsClock.trans {keep : Waiter → Prop} {h h' h'' : Hub} (first : KeepsClock keep h h') (second : KeepsClock keep h' h'') :
    KeepsClock keep h h'' :=
  ⟨fun distinct => second.stamps (first.stamps distinct), second.entries.trans first.entries,
    fun distinct clocked => second.clocked (first.stamps distinct) (first.clocked distinct clocked)⟩

section
variable {keep : Waiter → Prop}

theorem keepsClock_of_same {h h' : Hub} (waiters : h'.waiters = h.waiters) (deadlines : h'.deadlines = h.deadlines)
    (intake : h'.expiryIntake = h.expiryIntake) (counter : h'.stampCounter = h.stampCounter) : KeepsClock keep h h' :=
  ⟨fun distinct => distinct.of_same waiters counter, deadlines ▸ List.Sublist.refl _,
    fun _ clocked => clocked.of_same (waiting_of_waiters waiters) deadlines intake counter⟩

theorem KeepsClock.refl (h : Hub) : KeepsClock keep h h := keepsClock_of_same rfl rfl rfl rfl

theorem KeepsClock.foldl {α : Type} {f : Hub → α → Hub} (each : ∀ (h : Hub) (a : α), KeepsClock keep h (f h a)) (as : List α)
    (h : Hub) : KeepsClock keep h (as.foldl f h) := by
  induction as generalizing h with
  | nil => exact .refl h
  | cons a as ih => exact (each h a).trans (ih (f h a))

theorem reply_clock (h : Hub) (l : Link) (rq : Request) (code : ResultCode) (body : List Byte) (msg : Option MessageRef) :
    KeepsClock keep h (h.reply l rq code body msg) := keepsClock_of_same rfl rfl rfl rfl

theorem notice_clock (h : Hub) (w : Waiter) (kind : Byte) (body : List Byte) (msg : Option MessageRef) :
    KeepsClock keep h (h.notice w kind body msg) := keepsClock_of_same rfl rfl rfl rfl

theorem setSlot_clock (h : Hub) (i : Fin 48) (sl : Slot) : KeepsClock keep h (h.setSlot i sl) := keepsClock_of_same rfl rfl rfl rfl

theorem setPart_clock (h : Hub) (i : Fin 48) (p : Part) : KeepsClock keep h (h.setPart i p) := setSlot_clock h i _

theorem takeFrom_clock (h : Hub) (l : Link) : KeepsClock keep h (h.takeFrom l) := keepsClock_of_same rfl rfl rfl rfl

/-! ### The moving of due entries (R99) -/

theorem moveDue_clock (h : Hub) : KeepsClock keep h h.moveDue := by
  obtain ⟨moved, split, intake, -, full, -⟩ := h.moveDue_dueMovedTo
  refine ⟨id, split ▸ List.sublist_append_right _ _, fun distinct ⟨once, room, old, waits, entry⟩ => ?_⟩
  have perm : h.moveDue.entered.Perm h.entered := by
    rw [entered, entered, intake, split, List.map_append, List.append_assoc, ← List.append_assoc (h.moveDue.deadlines.map _)]
    exact List.perm_append_comm
  refine ⟨perm.nodup_iff.2 once, ?_, fun st mem => ?_, fun e mem => waits e ?_, fun w waits kept some => ?_⟩
  · by_cases none : moved = []
    · rw [intake, none]; simpa using room
    · exact full none
  · rw [intake] at mem
    rcases List.mem_append.1 mem with mem | mem
    · exact old st mem
    · obtain ⟨e, due, rfl⟩ := List.mem_map.1 mem
      obtain ⟨w, waiting, stamp, -⟩ := waits e (split ▸ List.mem_append_left _ due)
      exact stamp ▸ (distinct.2 w waiting.1).2
  · exact split ▸ List.mem_append_right _ mem
  · exact perm.mem_iff.2 (entry w waits kept some)

theorem catchUp_clock (h : Hub) : KeepsClock keep h h.catchUp :=
  h.moveDue_clock.trans (keepsClock_of_same (catchUp_waiters h) (catchUp_deadlines h) (catchUp_expiryIntake h)
    (catchUp_stampCounter h))

theorem tickEvents_clock (n : Nat) (h : Hub) : KeepsClock keep h (h.tickEvents n) := by
  induction n generalizing h with
  | zero => exact .refl h
  | succ n ih =>
    have event : KeepsClock keep h h.tickEvent := keepsClock_of_same rfl rfl rfl rfl
    exact (event.trans (catchUp_clock _)).trans (ih _)

/-! ### The end of a wait (R55, R57, R98) -/

theorem endWait_clock {h : Hub} {w : Waiter} {st : WaiterState} (msg : Option Half) (mem : w ∈ h.waiters) (ended : st ≠ .waiting) :
    KeepsClock keep h (h.endWait w st msg) := by
  have waiting := h.waiting_endWait w msg ended
  refine ⟨(h.endWait_keeps w st msg).stamps, ?_, fun distinct clocked => clocked.leave waiting ?_ ?_ ?_⟩
  all_goals rw [endWait_spec]
  · dsimp only
    split
    · exact List.Sublist.refl _
    · exact List.filter_sublist
  · exact clocked.removed distinct mem

theorem abandon_clock (h : Hub) (st : Stamp) : KeepsClock keep h (h.abandon st) := by
  unfold abandon
  split
  · rename_i w found
    exact (endWait_clock none (findWaiter_some found).1 (by decide)).trans (notice_clock _ _ _ _ _)
  · exact .refl h

theorem grant_clock {h : Hub} {w : Waiter} (mem : w ∈ h.waiters) : KeepsClock keep h (h.grant w) :=
  (endWait_clock none mem (by decide)).trans (notice_clock _ _ _ _ _)

theorem deliver_clock {h : Hub} {w : Waiter} (q : Queue) (m : Message) (mem : w ∈ h.waiters) :
    KeepsClock keep h (h.deliver q w m) :=
  (endWait_clock (some m.seq) mem (by decide)).trans (notice_clock _ _ _ _ _)

/-! ### The grant pass, the companion signalling and the hand-out -/

theorem grantHead_clock {h h' : Hub} {i : Fin 48} {st : Stamp} (granted : h.grantHead i st = some h') : KeepsClock keep h h' := by
  unfold grantHead at granted
  split at granted
  · rename_i w _ found
    obtain ⟨p, -, rfl⟩ := Option.map_eq_some_iff.1 granted
    exact (h.setPart_clock i p).trans (grant_clock (h := h.setPart i p) (findWaiter_some found).1)
  · cases granted

theorem grantList_clock (i : Fin 48) (sts : List Stamp) (h : Hub) : KeepsClock keep h (grantList i sts h) := by
  induction sts generalizing h with
  | nil => exact .refl h
  | cons st sts ih =>
    rw [grantList]
    split
    · rename_i granted; exact (grantHead_clock granted).trans (ih _)
    · exact .refl h

theorem grantPass_clock (h : Hub) (i : Fin 48) : KeepsClock keep h (h.grantPass i) := grantList_clock i _ h

theorem passIfHead_clock (h : Hub) (i : Fin 48) (wasHead : Bool) : KeepsClock keep h (h.passIfHead i wasHead) := by
  unfold passIfHead
  split
  · exact h.grantPass_clock i
  · exact .refl h

theorem signalCompanion_clock (h : Hub) (hd : Handle) : KeepsClock keep h (h.signalCompanion hd) := by
  rcases h.signalCompanion_cases hd with same | ⟨i, o, g, -, -, -, -, eq⟩
  · rw [same]; exact .refl h
  · rw [eq]; exact (h.setPart_clock i _).trans (grantPass_clock _ i)

theorem handOut_clock (i : Fin 48) (sts : List Stamp) (h : Hub) : KeepsClock keep h (handOut i sts h) := by
  induction sts generalizing h with
  | nil => exact .refl h
  | cons st sts ih =>
    rcases handOut_cons i st sts h with ⟨same, -⟩ | ⟨o, q, w, m, ms, -, -, found, -, eq⟩
    · rw [same]; exact .refl h
    · rw [eq]
      exact ((h.setPart_clock i _).trans (deliver_clock (h := h.setPart i _) _ m (findWaiter_some found).1)).trans (ih _)

/-! ### Messages that become SPENT, and records that are freed -/

theorem setReclaimed_clock (h : Hub) (i : Fin 48) (q : Queue) : KeepsClock keep h (h.setReclaimed i q) := by
  have set : KeepsClock keep h (h.setPart i (.queue q.reclaim)) := h.setPart_clock i _
  unfold setReclaimed
  dsimp only
  repeat' split
  · exact set.trans (setSlot_clock _ i _)
  · exact set
  · exact set
  · exact set

theorem spendMessage_clock (h : Hub) (l : Link) (ref : MessageRef) (session : Nat) (c : Carrier) :
    KeepsClock keep h (h.spendMessage l ref session c) := by
  rcases h.spendMessage_cases l ref session c with same | ⟨i, o, q, -, -, -, eq⟩
  · rw [same]; exact .refl h
  · rw [eq]; exact h.setReclaimed_clock i _

/-- A "free waiter" report frees no WAITING record (R61). -/
theorem freeWaiter_clock (h : Hub) (st : Stamp) : KeepsClock keep h (h.freeWaiter st) := by
  refine ⟨(h.freeWaiter_keeps st).stamps, ?_, fun distinct clocked => ?_⟩
  · unfold freeWaiter
    repeat' split
    all_goals exact List.Sublist.refl _
  · rw [freeWaiter_eq distinct]
    refine clocked.of_same (fun w => ?_) rfl rfl rfl
    simp only [Waiting, List.mem_filter, Bool.or_eq_true, decide_eq_true_eq]
    tauto

/-- A record is freed, and the removal of its entry claimed if it has a deadline (R59, R98). -/
theorem freed_clock {h : Hub} {w : Waiter} (mem : w ∈ h.waiters) :
    KeepsClock keep h ((if w.deadline.isSome then h.removeClaim w.stamp else h).freeRecord w.stamp) := by
  have eq : (if w.deadline.isSome then h.removeClaim w.stamp else h).freeRecord w.stamp =
      { h with
        waiters := h.waiters.filter fun x => decide (x.stamp ≠ w.stamp),
        deadlines := if w.deadline = none then h.deadlines else h.deadlines.filter fun e => decide (e.stamp ≠ w.stamp) } := by
    rcases w.deadline <;> rfl
  rw [eq]
  refine ⟨(filterRecords_keeps h _).stamps, ?_, fun distinct clocked =>
    clocked.leave (fun x => ?_) (clocked.removed distinct mem) rfl rfl⟩
  · dsimp only
    split
    · exact List.Sublist.refl _
    · exact List.filter_sublist
  · simp only [Waiting, List.mem_filter, decide_eq_true_eq, List.mem_singleton]
    tauto

theorem cancelWaiting_clock {h : Hub} {w : Waiter} (l : Link) (rq : Request) (mem : w ∈ h.waiters) :
    KeepsClock keep h (h.cancelWaiting l rq w) := by
  unfold cancelWaiting
  dsimp only
  split
  · rename_i i _
    exact (((setSlot_clock h i _).trans (freed_clock (h := h.leaveWaitList i w.stamp) mem)).trans
      (reply_clock _ _ _ _ _ _)).trans (passIfHead_clock _ _ _)
  · exact (freed_clock mem).trans (reply_clock _ _ _ _ _ _)

end

/-! ### An expiry item (R56, R101) -/

/-- The record whose item is performed has no entry any more, and it ends its wait if it waits. -/
theorem expire_clock {h : Hub} {st : Stamp} (clocked : h.Clocked fun w => w.stamp ≠ st)
    (gone : st ∉ h.deadlines.map DeadlineEntry.stamp) (distinct : h.StampsDistinct) :
    (h.expire st).Clocked everyone ∧ (h.expire st).deadlines.Sublist h.deadlines := by
  have ended {h' : Hub} (clocked : h'.Clocked fun w => w.stamp ≠ st) (off : ∀ w, h'.Waiting w → w.stamp ≠ st) :
      h'.Clocked everyone := { clocked with entry := fun w waits _ => clocked.entry w waits (off w waits) }
  have expired {h' : Hub} {w : Waiter} (same : KeepsClock (fun w => w.stamp ≠ st) h h') (deadlines : h'.deadlines = h.deadlines)
      (stamp : w.stamp = st) : (h'.expireRecord w).Clocked everyone := by
    subst stamp
    have waiting := waiting_map (h := h') (h' := h'.expireRecord w) (st := w.stamp) (f := fun x => { x with state := .expired })
      (fun _ => by simp) rfl
    refine ended ((same.clocked distinct clocked).leave waiting ?_ rfl rfl) fun x waits => by
      have other := ((waiting x).1 waits).2
      rwa [List.mem_singleton] at other
    have all : ∀ e ∈ h'.deadlines, decide (e.stamp ≠ w.stamp) = true := fun e mem =>
      decide_eq_true fun is => gone (is ▸ List.mem_map_of_mem (deadlines ▸ mem))
    exact (List.filter_eq_self.2 all).symm
  unfold expire
  rcases found : h.findWaiter st with _ | w
  · exact ⟨ended clocked fun w waits => findWaiter_none found w waits.1, List.Sublist.refl _⟩
  · obtain ⟨mem, stamp⟩ := findWaiter_some found
    dsimp only
    split
    · split
      · rename_i i _
        have left := expired (h' := h.leaveWaitList i st) (w := w) (setSlot_clock h i _) rfl stamp
        have pass := passIfHead_clock (keep := everyone) ((h.leaveWaitList i st).expireRecord w) i (h.isHead i st)
        exact ⟨pass.clocked (((h.leaveWaitList_keeps i st).trans (expireRecord_keeps _ w)).stamps distinct) left, pass.entries⟩
      · exact ⟨expired (.refl h) rfl stamp, List.Sublist.refl _⟩
    · rename_i notWaiting
      refine ⟨ended clocked fun x waits is => notWaiting ?_, List.Sublist.refl _⟩
      rw [← eq_of_stamp distinct waits.1 mem (is.trans stamp.symm)]
      exact waits.2

/-- EXPIRY takes the head of intake T, moves what waited for room, and performs the item (R99, R100). -/
theorem expiry_clock {h : Hub} {st : Stamp} {rest : List Stamp} (taken : h.expiryIntake = st :: rest) (distinct : h.StampsDistinct)
    (clocked : h.Clocked everyone) :
    (h.takeExpiry.moveDue.expire st).Clocked everyone ∧
      (h.takeExpiry.moveDue.expire st).deadlines.Sublist h.deadlines := by
  obtain ⟨once, room, old, waits, entry⟩ := clocked
  have tail : h.takeExpiry.expiryIntake = rest := by rw [takeExpiry, taken]; rfl
  rw [entered, taken] at once
  have lost : h.takeExpiry.Clocked fun w => w.stamp ≠ st := by
    refine ⟨?_, ?_, fun x mem => old x ?_, waits, fun w waits other some => ?_⟩
    · rw [entered, tail]
      exact once.sublist ((List.sublist_cons_self st rest).append_left _)
    · rw [taken, List.length_cons] at room
      rw [tail]; omega
    · rw [taken]; exact List.mem_cons_of_mem _ (tail ▸ mem)
    · have mem := entry w waits trivial some
      rw [entered, taken] at mem
      rw [entered, tail]
      simp only [List.mem_append, List.mem_cons, other, false_or] at mem
      exact List.mem_append.2 mem
  have gone : st ∉ h.deadlines.map DeadlineEntry.stamp := fun mem =>
    (List.nodup_append.1 once).2.2 st mem st List.mem_cons_self rfl
  have moved := moveDue_clock (keep := fun w => w.stamp ≠ st) h.takeExpiry
  obtain ⟨expired, entries⟩ := expire_clock (moved.clocked distinct lost)
    (fun mem => gone ((moved.entries.map _).subset mem)) distinct
  exact ⟨expired, entries.trans moved.entries⟩

end Hub
end Sys2Proof.Machine
end

section
/-! The order of the deadline list (R95 to R97), and what a new waiter's claim makes of the list and of intake T. -/

namespace Sys2Proof.Machine

/-! ### The order of near deadlines (R95) -/

/-- How far a deadline lies behind the earliest tick that counts as near: near deadlines have offsets below 2^31. -/
def offset (now d : Tick) : Nat := (d - now + 1073741824).toNat

/-- Of two near deadlines the earlier has the smaller offset. -/
theorem tickEarlier_eq_offset {now d1 d2 : Tick} (near1 : offset now d1 < 2147483648) (near2 : offset now d2 < 2147483648) :
    tickEarlier d1 d2 = decide (offset now d1 < offset now d2) := by
  unfold offset at *
  rw [Bool.eq_iff_iff]
  simp only [tickEarlier, Bool.and_eq_true, decide_eq_true_eq]
  bv_omega

/-- A deadline of at most 60,000 ticks from now is near (R49). -/
theorem offset_timeout (now : Tick) {timeout : Nat} (le : timeout ≤ 60000) :
    offset now (now + BitVec.ofNat 32 timeout) < 2147483648 := by
  unfold offset
  bv_omega

namespace Hub

/-- An entry that stands before another in the list (R96). -/
def Precedes (e later : DeadlineEntry) : Prop :=
  tickEarlier later.deadline e.deadline = false ∧ (e.deadline = later.deadline → e.stamp < later.stamp)

theorem insertDeadline_perm (e : DeadlineEntry) (es : List DeadlineEntry) : (insertDeadline e es).Perm (e :: es) := by
  obtain ⟨earlier, later, split, ins, -⟩ := insertDeadline_spec e es
  rw [ins, split]
  exact List.perm_middle

/-- A new entry whose stamp is the youngest finds its place in the order, while all deadlines are near (R97). -/
theorem insertDeadline_ordered {now : Tick} {e : DeadlineEntry} {es : List DeadlineEntry} (ordered : es.Pairwise Precedes)
    (near : ∀ x ∈ es, offset now x.deadline < 2147483648) (new : offset now e.deadline < 2147483648)
    (younger : ∀ x ∈ es, x.stamp < e.stamp) : (insertDeadline e es).Pairwise Precedes := by
  induction es with
  | nil => exact List.pairwise_singleton _ _
  | cons x xs ih =>
    obtain ⟨first, rest⟩ := List.pairwise_cons.1 ordered
    have nearX := near x List.mem_cons_self
    have nearXs : ∀ y ∈ xs, offset now y.deadline < 2147483648 := fun y mem => near y (List.mem_cons_of_mem _ mem)
    rw [insertDeadline]
    split
    · rename_i earlier
      rw [tickEarlier_eq_offset new nearX, decide_eq_true_eq] at earlier
      have before {y : DeadlineEntry} (nearY : offset now y.deadline < 2147483648)
          (le : offset now x.deadline ≤ offset now y.deadline) : Precedes e y := by
        refine ⟨?_, fun same => ?_⟩
        · rw [tickEarlier_eq_offset nearY new]; exact decide_eq_false (by omega)
        · rw [← same] at le; omega
      refine List.pairwise_cons.2 ⟨fun y mem => ?_, ordered⟩
      rcases List.mem_cons.1 mem with rfl | mem
      · exact before nearX (Nat.le_refl _)
      · have notEarlier := (first y mem).1
        rw [tickEarlier_eq_offset (nearXs y mem) nearX, decide_eq_false_iff_not] at notEarlier
        exact before (nearXs y mem) (Nat.le_of_not_lt notEarlier)
    · rename_i notEarlier
      refine List.pairwise_cons.2 ⟨fun y mem => ?_, ih rest nearXs fun y mem => younger y (List.mem_cons_of_mem _ mem)⟩
      rcases List.mem_cons.1 ((insertDeadline_perm e xs).mem_iff.1 mem) with rfl | mem
      · exact ⟨by simpa using notEarlier, fun _ => younger x List.mem_cons_self⟩
      · exact first y mem

/-! ### The claim of a new waiter (R97) -/

/-- No stamp beyond the counter has an entry. -/
theorem Clocked.fresh {h : Hub} {keep : Waiter → Prop} {st : Stamp} (clocked : h.Clocked keep) (distinct : h.StampsDistinct)
    (beyond : h.stampCounter < st) : st ∉ h.entered := fun mem => by
  rcases List.mem_append.1 mem with mem | mem
  · obtain ⟨e, entry, rfl⟩ := List.mem_map.1 mem
    obtain ⟨w, waiting, stamp, -⟩ := clocked.waits e entry
    exact Nat.not_le_of_lt beyond (stamp ▸ (distinct.2 w waiting.1).2)
  · exact Nat.not_le_of_lt beyond (clocked.old st mem)

/-- A record without a deadline joins the pool. -/
theorem Clocked.joined_untimed {h h' : Hub} {w : Waiter} (clocked : h.Clocked everyone)
    (waiting : ∀ x, h'.Waiting x ↔ h.Waiting x ∨ x = w) (untimed : w.deadline = none) (deadlines : h'.deadlines = h.deadlines)
    (intake : h'.expiryIntake = h.expiryIntake) (counter : h.stampCounter ≤ h'.stampCounter) : h'.Clocked everyone := by
  obtain ⟨once, room, old, waits, entry⟩ := clocked
  have same : h'.entered = h.entered := by rw [entered, entered, deadlines, intake]
  refine ⟨same ▸ once, intake ▸ room, fun st mem => (old st (intake ▸ mem)).trans counter, fun e mem => ?_, fun x waits' _ some => ?_⟩
  · obtain ⟨x, waits, same⟩ := waits e (deadlines ▸ mem)
    exact ⟨x, (waiting x).2 (Or.inl waits), same⟩
  · rw [same]
    rcases (waiting x).1 waits' with was | rfl
    · exact entry x was trivial some
    · exact absurd untimed some

/-- A record with a deadline joins the pool, and an entry of it the list or intake T. -/
theorem Clocked.joined {h h' : Hub} {w : Waiter} (clocked : h.Clocked everyone)
    (waiting : ∀ x, h'.Waiting x ↔ h.Waiting x ∨ x = w) (fresh : w.stamp ∉ h.entered)
    (perm : h'.entered.Perm (w.stamp :: h.entered)) (room : h'.expiryIntake.length ≤ 96)
    (old : ∀ st ∈ h'.expiryIntake, st ≤ h'.stampCounter)
    (listed : ∀ e ∈ h'.deadlines, e ∈ h.deadlines ∨ e.stamp = w.stamp ∧ w.deadline = some e.deadline) :
    h'.Clocked everyone := by
  obtain ⟨once, -, -, waits, entry⟩ := clocked
  refine ⟨perm.nodup_iff.2 (List.nodup_cons.2 ⟨fresh, once⟩), room, old, fun e mem => ?_, fun x waits' _ some =>
    perm.mem_iff.2 ?_⟩
  · rcases listed e mem with mem | ⟨stamp, deadline⟩
    · obtain ⟨x, waits, same⟩ := waits e mem
      exact ⟨x, (waiting x).2 (Or.inl waits), same⟩
    · exact ⟨w, (waiting w).2 (Or.inr rfl), stamp.symm, deadline⟩
  · rcases (waiting x).1 waits' with was | rfl
    · exact List.mem_cons_of_mem _ (entry x was trivial some)
    · exact List.mem_cons_self

/-- A record that is new to the pool gets an entry of its own, if it has a deadline. -/
theorem Clocked.claimed {h h' : Hub} {w : Waiter} (clocked : h.Clocked everyone) (distinct : h.StampsDistinct)
    (state : w.state = .waiting) (stamp : w.stamp = h.stampCounter + 1) (waiters : h'.waiters = h.waiters ++ [w])
    (counter : h'.stampCounter = h.stampCounter + 1) (deadlines : h'.deadlines = h.deadlines)
    (intake : h'.expiryIntake = h.expiryIntake) : (h'.claimFor w.stamp w.deadline).Clocked everyone := by
  have waiting : ∀ x, (h'.claimFor w.stamp w.deadline).Waiting x ↔ h.Waiting x ∨ x = w :=
    waiting_append state (by rw [claimFor_waiters, waiters])
  have fresh : w.stamp ∉ h.entered := clocked.fresh distinct (by rw [stamp]; exact Nat.lt_succ_self _)
  have raised : ∀ st ∈ h.expiryIntake, st ≤ h'.stampCounter := fun st mem => by
    rw [counter]; exact Nat.le_succ_of_le (clocked.old st mem)
  cases deadline : w.deadline with
  | none =>
    rw [deadline] at waiting
    exact clocked.joined_untimed waiting deadline deadlines intake (by rw [claimFor, counter]; exact Nat.le_succ _)
  | some d =>
    rw [deadline] at waiting
    simp only [claimFor] at waiting ⊢
    rcases h'.insertClaim_cases ⟨w.stamp, d⟩ with ⟨⟨-, below⟩, eq⟩ | ⟨-, eq⟩
    · rw [eq, intake, deadlines] at waiting ⊢
      rw [intake] at below
      refine clocked.joined waiting fresh ?_ ?_ (fun st mem => ?_) fun e mem => Or.inl mem
      · rw [entered, ← List.append_assoc]
        exact List.perm_append_singleton _ _
      · rw [List.length_append, List.length_singleton]; omega
      · rcases List.mem_append.1 mem with mem | mem
        · exact raised st mem
        · rw [List.mem_singleton.1 mem]; exact Nat.le_of_eq (stamp.trans counter.symm)
    · have inserted := insertDeadline_perm ⟨w.stamp, d⟩ h.deadlines
      rw [eq, intake, deadlines] at waiting ⊢
      refine clocked.joined waiting fresh ((inserted.map DeadlineEntry.stamp).append_right _) clocked.room raised fun e mem => ?_
      rcases List.mem_cons.1 (inserted.mem_iff.1 mem) with rfl | mem
      · exact Or.inr ⟨rfl, deadline⟩
      · exact Or.inl mem

/-! ### What every step keeps -/

/-- From `h` to `h'` the list and intake T are sound in the end, and the list in order if it was and its deadlines are near. -/
structure Timed (h h' : Hub) : Prop where
  clocked : h'.Clocked everyone
  ordered : h.DeadlinesNear → h.DeadlinesOrdered → h'.DeadlinesOrdered

theorem timed_of_sublist {h h' : Hub} (clocked : h'.Clocked everyone) (entries : h'.deadlines.Sublist h.deadlines) : Timed h h' :=
  ⟨clocked, fun _ ordered => List.Pairwise.sublist entries ordered⟩

theorem KeepsClock.timed {h h' : Hub} (keeps : KeepsClock everyone h h') (distinct : h.StampsDistinct)
    (clocked : h.Clocked everyone) : Timed h h' := timed_of_sublist (keeps.clocked distinct clocked) keeps.entries

theorem Timed.andThen {h h' h'' : Hub} (first : Timed h h') (distinct : h'.StampsDistinct) (second : KeepsClock everyone h' h'') :
    Timed h h'' :=
  ⟨second.clocked distinct first.clocked, fun near ordered => List.Pairwise.sublist second.entries (first.ordered near ordered)⟩

theorem KeepsClock.andThen {h h' h'' : Hub} (first : KeepsClock everyone h h') (tick : h'.tick = h.tick) (second : Timed h' h'') :
    Timed h h'' :=
  ⟨second.clocked, fun near ordered => second.ordered (fun e mem => tick ▸ near e (first.entries.subset mem))
    (List.Pairwise.sublist first.entries ordered)⟩

theorem ticked_clock {keep : Waiter → Prop} (h : Hub) (ticks timeout : Nat) : KeepsClock keep h (h.ticked ticks timeout) := by
  unfold ticked
  split
  · exact .refl h
  · exact h.tickEvents_clock ticks

/-- The tick events within an item change no record. -/
theorem ticked_records (h : Hub) (ticks timeout : Nat) : (h.ticked ticks timeout).records = h.records := by
  unfold ticked
  split
  · rfl
  · rw [tickEvents_frame]; rfl

/-- An entry claimed for the youngest stamp, not more than 60,000 ticks ahead, leaves the list in order (R45, R49, R97). -/
theorem claimFor_ordered {h h' : Hub} {deadline : Option Tick} (entries : h'.deadlines.Sublist h.deadlines) {st : Stamp}
    (younger : ∀ e ∈ h'.deadlines, e.stamp < st) (near : h.DeadlinesNear)
    (new : ∀ d, deadline = some d → offset h.tick d < 2147483648) (ordered : h.DeadlinesOrdered) :
    (h'.claimFor st deadline).DeadlinesOrdered := by
  have ordered' : h'.DeadlinesOrdered := List.Pairwise.sublist entries ordered
  cases deadline with
  | none => exact ordered'
  | some d =>
    rw [claimFor]
    rcases h'.insertClaim_cases ⟨st, d⟩ with ⟨-, eq⟩ | ⟨-, eq⟩
    · rw [eq]; exact ordered'
    · rw [eq]; exact insertDeadline_ordered ordered' (fun e mem => near e (entries.subset mem)) (new d rfl) younger

/-- The record of a new waiter and its claim. -/
theorem makeWaiter_timed {h : Hub} (ticks : Nat) (l : Link) (rq : Request) (hd : Handle) (i : Fin 48) (d : Discipline) (op : WaitOp)
    (amount priority : Nat) {timeout : Nat} (allowed : timeout ≤ 60000 ∨ timeout = 65535) (distinct : h.StampsDistinct)
    (clocked : h.Clocked everyone) : Timed h (h.makeWaiter ticks l rq hd i d op amount priority timeout) := by
  have keeps := h.ticked_clock (keep := everyone) ticks timeout
  have same := h.ticked_records ticks timeout
  simp only [records, Prod.mk.injEq] at same
  obtain ⟨-, waiters, counter⟩ := same
  have clocked' := keeps.clocked distinct clocked
  rw [makeWaiter_eq]
  generalize h.insertWaiter d priority (h.stampCounter + 1) (h.waitListAt i) = ws
  let w := h.newWaiter l rq hd op amount priority timeout
  let new := h.recorded ticks timeout i ws w
  have claimed : (new.claimFor w.stamp w.deadline).Clocked everyone :=
    clocked'.claimed (keeps.stamps distinct) rfl (by rw [counter]; rfl) (by rw [waiters]; rfl) (by rw [counter]; rfl) rfl rfl
  refine ⟨claimed.of_same (fun _ => Iff.rfl) rfl rfl rfl, fun near ordered => ?_⟩
  refine claimFor_ordered (h' := new) keeps.entries (fun e mem => ?_) near (fun t is => ?_) ordered
  · obtain ⟨x, waits, stamp, -⟩ := clocked'.waits e mem
    have le := ((keeps.stamps distinct).2 x waits.1).2
    rw [counter, stamp] at le
    exact Nat.lt_succ_of_le le
  · unfold deadlineOf at is
    split at is
    · cases is
    · cases is; exact offset_timeout h.tick (by omega)

end Hub
end Sys2Proof.Machine
end

section
/-! The purge and the requests for the deadline list (R38, R87, R98, R113): a purge leaves no entry of its link, a request claims at
most the entry of a new waiter. -/

namespace Sys2Proof.Machine
namespace Hub

/-! ### The purge at one slot -/

/-- The entries of the link's waiters on a list leave the deadline list; those of the other links' waiters stay. -/
theorem without_clock (h : Hub) (l : Link) (ws : List Stamp) : KeepsClock (ofOthers l) h (h.without l ws) := by
  refine ⟨id, List.filter_sublist, fun distinct ⟨once, room, old, waits, entry⟩ => ⟨?_, room, old,
    fun e mem => waits e (List.mem_of_mem_filter mem), fun w waiting other some => ?_⟩⟩
  · exact once.sublist ((List.filter_sublist.map _).append_right _)
  · rcases List.mem_append.1 (entry w waiting other some) with mem | mem
    · obtain ⟨e, mem, stamp⟩ := List.mem_map.1 mem
      have stays : e.stamp ∉ ws.filter (h.mine l) := fun gone => by
        have mine := (List.mem_filter.1 gone).2
        rw [stamp, mine_stamp distinct waiting.1] at mine
        exact other (of_decide_eq_true mine)
      exact List.mem_append_left _ (List.mem_map.2 ⟨e, List.mem_filter.2 ⟨mem, decide_eq_true stays⟩, stamp⟩)
    · exact List.mem_append_right _ mem

/-- What a purge of the link does at slot `i`: the list stays sound for the other links, and loses the link's waiters there. -/
structure PurgesClock (l : Link) (i : Fin 48) (h h' : Hub) : Prop where
  clock : KeepsClock (ofOthers l) h h'
  gone : ∀ e ∈ h'.deadlines, e.stamp ∉ (h.waitListAt i).filter (h.mine l)

theorem PurgesClock.andThen {l : Link} {i : Fin 48} {h h' h'' : Hub} (first : PurgesClock l i h h')
    (second : KeepsClock (ofOthers l) h' h'') : PurgesClock l i h h'' :=
  ⟨first.clock.trans second, fun e mem => first.gone e (second.entries.subset mem)⟩

theorem without_purges {h : Hub} {i : Fin 48} {l : Link} {ws : List Stamp} (list : h.waitListAt i = ws) :
    PurgesClock l i h (h.without l ws) :=
  ⟨h.without_clock l ws, fun e mem => by rw [list]; exact of_decide_eq_true (List.mem_filter.1 mem).2⟩

/-- A slot without waiters. -/
theorem purges_nothing {h : Hub} {i : Fin 48} (l : Link) (empty : h.waitListAt i = []) : PurgesClock l i h h :=
  ⟨.refl h, fun e _ => by rw [empty]; exact List.not_mem_nil⟩

theorem purgeSlot_clock {h : Hub} (l : Link) (i : Fin 48) (queues : h.QueuesSound) : PurgesClock l i h (purgeSlot l h i).1 := by
  cases state : (h.slot i).state with
  | free =>
    simp only [purgeSlot, state]
    exact purges_nothing l (by rw [waitListAt, objAt, state]; rfl)
  | live o =>
    have list := waitListAt_of_objAt (objAt_of_live state)
    have set (p : Part) : PurgesClock l i h ((h.without l o.part.waitList).setLive i o p) :=
      (without_purges list).andThen (setSlot_clock _ i _)
    cases part : o.part with
    | resource r =>
      rw [purgeSlot_resource l state part]
      rw [part] at set
      dsimp only
      split
      · exact set _
      · exact (set _).andThen (grantPass_clock _ i)
    | signal g =>
      rw [purgeSlot_signal l state part]
      rw [part] at set
      dsimp only
      split
      · exact set _
      · exact (set _).andThen (grantPass_clock _ i)
    | queue q =>
      rw [purgeSlot_liveQueue l state part]
      rw [part] at set
      exact (set _).andThen (handOut_clock i _ _)
  | draining o =>
    obtain ⟨-, -, drained⟩ := queues
    obtain ⟨q, part, -⟩ := drained i o state
    have list := waitListAt_of_objAt (objAt_of_draining state)
    rw [part] at list
    rw [purgeSlot_drainingQueue l state part]
    exact (without_purges list).andThen (setSlot_clock _ i _)

/-! ### The whole purge -/

/-- The visit of distinct slots: each loses the entries of the link's waiters that stood there when the purge began. -/
theorem purgeSlots_clock (l : Link) (is : List (Fin 48)) : ∀ {h : Hub}, is.Nodup → h.QueuesSound →
    KeepsClock (ofOthers l) h (purgeSlots l is h).1 ∧
      ∀ i ∈ is, ∀ e ∈ (purgeSlots l is h).1.deadlines, e.stamp ∉ (h.waitListAt i).filter (h.mine l) := by
  induction is with
  | nil => exact fun _ _ => ⟨.refl _, nofun⟩
  | cons i is ih =>
    intro h nodup queues
    obtain ⟨once, nodup⟩ := List.nodup_cons.1 nodup
    obtain ⟨frame, others, -⟩ := purgeSlot_clears l h i
    obtain ⟨clock, gone⟩ := purgeSlot_clock l i queues
    obtain ⟨clock', gone'⟩ := ih nodup ((purgeSlot_keeps l h i).keepsEngine.queues queues)
    refine ⟨clock.trans clock', fun j mem e entry => ?_⟩
    by_cases is : j = i
    · exact is ▸ gone e (clock'.entries.subset entry)
    · have left := gone' j ((List.mem_cons.1 mem).resolve_left is) e entry
      rwa [frame.mine, waitListAt, objAt, others j is] at left

/-- After the visit of all slots no entry is left of the link's records, which then go (R113 step 2). -/
theorem purgeSlots_filtered {h : Hub} (l : Link) (distinct : h.StampsDistinct) (queues : h.QueuesSound) (sound : h.ListsSound)
    (clocked : h.Clocked everyone) :
    Clocked { (purgeSlots l slotNumbers h).1 with
      waiters := (purgeSlots l slotNumbers h).1.waiters.filter fun w => w.link ≠ l } everyone := by
  obtain ⟨clock, gone⟩ := purgeSlots_clock l slotNumbers (List.nodup_finRange 48) queues
  obtain ⟨frame, -⟩ := purgeSlots_clears l slotNumbers h
  have distinct' := clock.stamps distinct
  have mine' := frame.mine l
  generalize (purgeSlots l slotNumbers h).1 = h' at *
  obtain ⟨once, room, old, waits, entry⟩ := clock.clocked distinct { clocked with entry := fun w waits _ => clocked.entry w waits trivial }
  refine ⟨once, room, old, fun e mem => ?_, fun w ⟨mem, waiting⟩ _ some => ?_⟩
  · obtain ⟨w, ⟨mem', waiting⟩, stamp, deadline⟩ := waits e mem
    refine ⟨w, ⟨List.mem_filter.2 ⟨mem', decide_eq_true fun link => ?_⟩, waiting⟩, stamp, deadline⟩
    obtain ⟨was, waited, same, -⟩ := clocked.waits e (clock.entries.subset mem)
    have mine : h.mine l was.stamp = true := by
      rw [← mine', same, ← stamp, mine_stamp distinct' mem']; exact decide_eq_true link
    obtain ⟨i, o, -, there, listed⟩ := sound.names waited
    refine gone i (List.mem_finRange i) e mem ?_
    rw [waitListAt_of_objAt there, ← same]
    exact List.mem_filter.2 ⟨listed, mine⟩
  · obtain ⟨mem, other⟩ := List.mem_filter.1 mem
    have other : w.link ≠ l := of_decide_eq_true other
    exact entry w ⟨mem, waiting⟩ other some

theorem purge_timed {h : Hub} (l : Link) (distinct : h.StampsDistinct) (queues : h.QueuesSound) (sound : h.ListsSound)
    (clocked : h.Clocked everyone) : Timed h (h.purge l) := by
  have visited := (purgeSlots_clock l slotNumbers (List.nodup_finRange 48) queues).1.entries
  have filtered := purgeSlots_filtered l distinct queues sound clocked
  have distinct' := ((purgeSlots_keeps l slotNumbers h).trans (filterRecords_keeps _ fun w => w.link ≠ l)).stamps distinct
  unfold purge
  dsimp only
  generalize purgeSlots l slotNumbers h = v at visited filtered distinct' ⊢
  have signalled := KeepsClock.foldl (keep := everyone) signalCompanion_clock v.2
    { v.1 with waiters := v.1.waiters.filter fun w => w.link ≠ l }
  have timed := (timed_of_sublist filtered visited).andThen distinct' signalled
  have distinct'' := signalled.stamps distinct'
  generalize v.2.foldl signalCompanion _ = h' at timed distinct'' ⊢
  rw [purgeCompletion_frame]
  exact timed.andThen distinct'' (keepsClock_of_same rfl rfl rfl rfl)

/-! ### Requests -/

/-- A hub without records and without entries. -/
theorem clocked_of_none {h : Hub} {keep : Waiter → Prop} (noRecord : h.waiters = []) (noEntry : h.deadlines = [])
    (noItem : h.expiryIntake = []) : h.Clocked keep := by
  refine ⟨by rw [entered, noEntry, noItem]; exact List.nodup_nil, by rw [noItem]; exact Nat.zero_le _,
    fun st mem => ?_, fun e mem => ?_, fun w waits => ?_⟩
  · rw [noItem] at mem; cases mem
  · rw [noEntry] at mem; cases mem
  · have mem := waits.1
    rw [noRecord] at mem; cases mem

theorem hubReset_clock (h : Hub) (l : Link) (rq : Request) : KeepsClock everyone h (h.hubReset l rq) := by
  have stamps := (h.hubReset_keeps l rq).stamps
  rcases right : h.manages l
  · have refused : h.hubReset l rq = h.refuse l rq .denied := by simp [hubReset, right]
    rw [refused]; exact reply_clock h l rq _ _ _
  · rw [hubReset_frame rq right] at stamps ⊢
    exact ⟨stamps, List.nil_sublist _, fun _ _ => clocked_of_none rfl rfl rfl⟩

theorem acceptSend_clock {h : Hub} (l : Link) (rq : Request) {i : Fin 48} {o : Obj} (q : Queue) (payload : List Byte)
    (live : (h.slot i).state = .live o) : KeepsClock everyone h (h.acceptSend l rq i q payload) := by
  have sent (m : Message) (ws : List Stamp) : KeepsClock everyone h (h.sent l rq i o q payload m ws) :=
    keepsClock_of_same rfl rfl rfl rfl
  rcases acceptSend_cases l rq payload live with ⟨w, found, eq⟩ | ⟨-, eq | ⟨c, eq⟩⟩
  · obtain ⟨st, -, found⟩ := Option.bind_eq_some_iff.1 found
    rw [eq]
    exact (sent _ _).trans (deliver_clock (h := h.sent l rq i o q payload _ _) _ _ (findWaiter_some found).1)
  · rw [eq]; exact sent _ _
  · rw [eq]; exact (sent _ _).trans (signalCompanion_clock _ c)

theorem deleteQueue_clock (h : Hub) (l : Link) (rq : Request) (i : Fin 48) (o : Obj) (q : Queue) :
    KeepsClock everyone h (h.deleteQueue l rq i o q) := by
  rw [deleteQueue_eq]
  exact ((h.reply_clock l rq .ok [] none).trans (.foldl abandon_clock _ _)).trans (setSlot_clock _ i _)

/-- The timeout of a request that its check lets pass (R49). -/
theorem timeout_allowed {h : Hub} {l : Link} {rq : Request} {priority timeout : Nat} (passes : h.refusal l rq = none)
    (checked : (waitFieldsBad priority timeout, .outOfRange) ∈ h.checks l rq) : timeout ≤ 60000 ∨ timeout = 65535 := by
  have fine : waitFieldsBad priority timeout = false := firstFailing_none passes _ checked
  simp only [waitFieldsBad, Bool.or_eq_false_iff, Bool.and_eq_false_iff, decide_eq_false_iff_not] at fine
  omega

/-- A request that no check refuses, other than CREATE: at most the entry of a new waiter is claimed. -/
theorem perform_timed {h : Hub} {l : Link} {rq : Request} (ticks : Nat) (distinct : h.StampsDistinct)
    (clocked : h.Clocked everyone) (passes : h.refusal l rq = none) (noCreate : rq.body.common? = none) :
    Timed h (rq.body.perform ticks l rq h) := by
  have keeps {h' : Hub} (clock : KeepsClock everyone h h') : Timed h h' := clock.timed distinct clocked
  have set (i : Fin 48) (o : Obj) (p : Part) (code : ResultCode) (body : List Byte) (msg : Option MessageRef) :
      KeepsClock everyone h ((h.setLive i o p).reply l rq code body msg) :=
    (h.setSlot_clock i _).trans (reply_clock _ _ _ _ _ _)
  cases body : rq.body with
  | createResource c => rw [body] at noCreate; cases noCreate
  | createSignal c => rw [body] at noCreate; cases noCreate
  | createQueue c => rw [body] at noCreate; cases noCreate
  | delete hd =>
    obtain ⟨i, o, -, -, eq⟩ := (h.delete_spec l rq hd body).2 passes
    rw [ObjReq.perform, eq]
    split
    · exact keeps ((h.setSlot_clock i _).trans (reply_clock _ _ _ _ _ _))
    · exact keeps (((h.reply_clock _ _ _ _ _).trans (.foldl abandon_clock _ _)).trans (setSlot_clock _ i _))
    · exact keeps (h.deleteQueue_clock l rq i o _)
  | lookup name =>
    obtain ⟨i, o, -, -, eq⟩ := (h.lookup_spec l rq name body).2 passes
    rw [ObjReq.perform, eq]; exact keeps (reply_clock _ _ _ _ _ _)
  | query hd =>
    obtain ⟨i, o, -, -, eq⟩ := (h.query_spec l rq hd body).2 passes
    rw [ObjReq.perform, eq]; exact keeps (reply_clock _ _ _ _ _ _)
  | setAccess hd access =>
    obtain ⟨i, o, -, -, -, eq⟩ := (h.setAccess_spec l rq hd access body).2 passes
    rw [ObjReq.perform, eq]; exact keeps ((h.setSlot_clock i _).trans (reply_clock _ _ _ _ _ _))
  | reclaim hd =>
    obtain ⟨i, o, r, -, -, -, -, eq⟩ := (h.reclaimTokens_spec l rq hd body).2 passes
    rw [ObjReq.perform, eq]; exact keeps ((set i o _ _ _ _).trans (grantPass_clock _ i))
  | acquire hd amount priority timeout =>
    obtain ⟨i, o, r, -, live, -, atOnce, blocked⟩ := (h.acquire_spec ticks l rq hd amount priority timeout body).2 passes
    rcases b : h.acquireBlocked hd amount
    · obtain ⟨-, -, eq⟩ := atOnce b
      rw [ObjReq.perform, eq]; exact keeps (set i o _ _ _ _)
    · have waits := makeWaiter_timed ticks l rq hd i o.discipline .acquire amount priority
        (timeout_allowed (priority := priority) (timeout := timeout) passes (by simp [checks, body])) distinct clocked
      have stamps := (makeWaiter_keeps ticks hd o.discipline .acquire amount priority timeout live
        ((acquire_passed body passes).2.2 b)).stamps distinct
      rw [ObjReq.perform, blocked b]
      split
      · exact waits.andThen stamps (grantPass_clock _ i)
      · exact waits
  | release hd amount =>
    obtain ⟨i, o, r, -, -, -, -, eq⟩ := (h.release_spec l rq hd amount body).2 passes
    rw [ObjReq.perform, eq]; exact keeps ((set i o _ _ _ _).trans (grantPass_clock _ i))
  | signal hd amount =>
    obtain ⟨i, o, g, -, -, -, -, eq⟩ := (h.signal_spec l rq hd amount body).2 passes
    rw [ObjReq.perform, eq]; exact keeps ((set i o _ _ _ _).trans (grantPass_clock _ i))
  | wait hd priority timeout =>
    obtain ⟨i, o, g, -, -, -, atOnce, blocked⟩ := (h.wait_spec ticks l rq hd priority timeout body).2 passes
    rcases b : h.waitBlocked hd
    · obtain ⟨-, -, eq⟩ := atOnce b
      rw [ObjReq.perform, eq]; exact keeps (set i o _ _ _ _)
    · rw [ObjReq.perform, blocked b]
      exact makeWaiter_timed ticks l rq hd i o.discipline .wait 1 priority
        (timeout_allowed (priority := priority) (timeout := timeout) passes (by simp [checks, body])) distinct clocked
  | cancel tag =>
    obtain ⟨w, mem, -, -, -, eq⟩ := (h.cancel_spec l rq tag body).2 passes
    rw [ObjReq.perform, eq]; exact keeps (cancelWaiting_clock l rq mem)
  | send hd payload =>
    obtain ⟨i, o, q, -, live, -, -, -, -, eq⟩ := (h.send_spec l rq hd payload body).2 passes
    rw [ObjReq.perform, eq]; exact keeps (acceptSend_clock l rq q payload live)
  | receive hd priority timeout =>
    obtain ⟨i, o, q, -, -, -, atOnce, blocked⟩ := (h.receive_spec ticks l rq hd priority timeout body).2 passes
    rcases b : h.receiveBlocked hd
    · obtain ⟨older, m, newer, -, -, -, eq⟩ := atOnce b
      rw [ObjReq.perform, eq]; exact keeps (set i o _ _ _ _)
    · rw [ObjReq.perform, blocked b]
      exact makeWaiter_timed ticks l rq hd i o.discipline .receive 1 priority
        (timeout_allowed (priority := priority) (timeout := timeout) passes (by simp [checks, body])) distinct clocked
  | flush hd =>
    obtain ⟨i, o, q, -, -, -, eq⟩ := (h.flush_spec l rq hd body).2 passes
    rw [ObjReq.perform, eq]; exact keeps (set i o _ _ _ _)
  | evict target =>
    obtain ⟨t, -, -, eq⟩ := (h.evict_spec l rq target body).2 passes
    rw [ObjReq.perform, eq]; exact keeps (keepsClock_of_same rfl rfl rfl rfl)
  | hubReset => exact keeps (h.hubReset_clock l rq)

/-- A request that the engine takes. -/
theorem request_timed {h : Hub} {l : Link} {rq : Request} (ticks : Nat) (distinct : h.StampsDistinct)
    (clocked : h.Clocked everyone) : Timed h (rq.body.perform ticks l rq (h.takeFrom l)) := by
  have taken : KeepsClock everyone h (h.takeFrom l) := h.takeFrom_clock l
  rcases passes : (h.takeFrom l).refusal l rq with _ | code
  · rcases create : rq.body.common? with _ | c
    · exact taken.andThen rfl (perform_timed ticks (taken.stamps distinct) (taken.clocked distinct clocked) passes create)
    · obtain ⟨p, -, i, -, -, eq⟩ := perform_creates ticks create passes
      rw [eq, create_eq]
      exact ((taken.trans (setSlot_clock _ i _)).trans (reply_clock _ _ _ _ _ _)).timed distinct clocked
  · rw [perform_refused ticks passes]
    exact (taken.trans (reply_clock _ _ _ _ _ _)).timed distinct clocked

/-! ### Every item of the engine -/

/-- The expiry item that the arbiter gives is the head of intake T (R108). -/
theorem head_of_turn {h : Hub} {st : Stamp} (turn : h.turn = some (.expiry st)) : ∃ rest, h.expiryIntake = st :: rest := by
  obtain ⟨source, -, head⟩ := List.exists_of_findSome?_eq_some turn
  cases source with
  | link m =>
    obtain ⟨x, -, eq⟩ := Option.map_eq_some_iff.1 head
    cases eq
  | timebase =>
    obtain ⟨x, first, eq⟩ := Option.map_eq_some_iff.1 head
    cases eq
    exact List.head?_eq_some_iff.1 first

theorem turn_timed {turn : Turn} (ticks : Nat) {h : Hub} (given : h.turn = some turn) (distinct : h.StampsDistinct)
    (queues : h.QueuesSound) (sound : h.ListsSound) (clocked : h.Clocked everyone) : Timed h (turn.perform ticks h) :=
  match turn, given with
  | .item _ (.request _), _ => request_timed ticks distinct clocked
  | .item l (.freeWaiter st), _ => ((h.takeFrom_clock l).trans (freeWaiter_clock _ st)).timed distinct clocked
  | .item l (.spendMessage ref session c), _ =>
    ((h.takeFrom_clock l).trans (spendMessage_clock _ l ref session c)).timed distinct clocked
  | .item l .purge, _ =>
    have taken : KeepsClock everyone h (h.takeFrom l) := h.takeFrom_clock l
    taken.andThen rfl (purge_timed l (taken.stamps distinct) queues (sound.of_records rfl rfl) (taken.clocked distinct clocked))
  | .expiry _, given =>
    have ⟨_, taken⟩ := head_of_turn given
    have ⟨expired, entries⟩ := expiry_clock taken distinct clocked
    timed_of_sublist expired entries

end Hub
end Sys2Proof.Machine
end

section
/-! The commands at a link change nothing but links and intakes; then every command, and with it every step, for the deadline list. -/

namespace Sys2Proof.Machine
namespace Hub

/-! ### The commands at a link -/

/-- From `h` to `h'` nothing changes but the links and their intakes. -/
def OnlyLines (h h' : Hub) : Prop := h' = { h with links := h'.links, intakes := h'.intakes }

theorem OnlyLines.trans {h h' h'' : Hub} (first : h.OnlyLines h') (second : h'.OnlyLines h'') : h.OnlyLines h'' := by
  unfold OnlyLines at *
  rw [second, first]

theorem OnlyLines.clock {keep : Waiter → Prop} {h h' : Hub} (lines : h.OnlyLines h') : KeepsClock keep h h' := by
  rw [lines]; exact keepsClock_of_same rfl rfl rfl rfl

theorem lapse_lines (h : Hub) (l : Link) : h.OnlyLines (h.lapse l) := by
  unfold lapse; split <;> rfl

theorem serveHello_lines (h : Hub) (l : Link) (slot : Fin 4) (f : RxFrame) (he : Hello) :
    h.OnlyLines (h.serveHello l slot f he) := by
  unfold serveHello
  split
  · split <;> rfl
  · rw [answerHello_frame]; rfl

theorem serve_lines (h : Hub) (l : Link) (slot : Fin 4) (f : RxFrame) : h.OnlyLines (h.serve l slot f) := by
  unfold serve
  split
  · rfl
  · rfl
  · exact h.serveHello_lines l slot f _
  · unfold serveBye; split <;> rfl
  · unfold servePing; split <;> rfl
  · unfold serveLinkStatus
    repeat' split
    all_goals rfl
  · unfold serveRequest; split <;> rfl

theorem goodFrame_lines (h : Hub) (l : Link) (f : RxFrame) : h.OnlyLines (h.goodFrame l f) := by
  unfold goodFrame goodFrameEnding
  split
  · split <;> rfl
  · dsimp only
    split
    · rfl
    · exact OnlyLines.trans (h' := (h.modLink l LinkState.restartKeepalive).modLink l fun k => k.takeSlot _) rfl
        (serve_lines _ l _ f)

theorem closeFrame_lines (h : Hub) (l : Link) : h.OnlyLines (h.closeFrame l) := by
  unfold closeFrame
  split
  · rfl
  · exact OnlyLines.trans (h' := h.modLink l fun k => { k with buffer := [] }) rfl (goodFrame_lines _ l _)

theorem closeGood_lines (h : Hub) (l : Link) (sort : Option ReqKind → Bool) : h.OnlyLines (h.closeGood l sort) := by
  unfold closeGood
  split
  · exact h.closeFrame_lines l
  · rfl

theorem goodCharacter_lines (h : Hub) (l : Link) (v : Byte) : h.OnlyLines (h.goodCharacter l v) := by
  unfold goodCharacter
  split
  · exact h.closeFrame_lines l
  · rfl

theorem lineBreak_lines (h : Hub) (l : Link) : h.OnlyLines (h.lineBreak l) := by
  unfold lineBreak
  repeat' split
  all_goals rfl

theorem frameCompletes_lines (h : Hub) (l : Link) : h.OnlyLines (h.frameCompletes l) := by
  unfold frameCompletes
  dsimp only
  repeat' split
  all_goals rfl

theorem reset_clock (h : Hub) (p : Straps) : KeepsClock everyone h (reset p) :=
  ⟨(reset_keepsEngine h p).stamps, List.nil_sublist _, fun _ _ => clocked_of_none rfl rfl rfl⟩

end Hub

/-! ### Every command, every step -/

theorem State.onHub_clock (s : State) {f : Hub → Hub} (keeps : ∀ h : Hub, Hub.KeepsClock Hub.everyone h (f h)) :
    ∃ t, s.onHub f = .next t ∧ Hub.KeepsClock Hub.everyone s.toHub t.toHub :=
  ⟨_, s.onHub_next f, s.toHub.catchUp_clock.trans (keeps _)⟩

theorem State.onHub_lines (s : State) {f : Hub → Hub} (lines : ∀ h : Hub, h.OnlyLines (f h)) :
    ∃ t, s.onHub f = .next t ∧ Hub.KeepsClock Hub.everyone s.toHub t.toHub := s.onHub_clock fun h => (lines h).clock

/-- A command that takes no item claims no entry. -/
theorem exec_clock {c : Instr} (s : State) (takes : c.takesItem = false) :
    ∃ t, exec c s = .next t ∧ Hub.KeepsClock Hub.everyone s.toHub t.toHub := by
  cases c <;> dsimp only [exec]
  case pinReset p => exact s.onHub_clock fun h => h.reset_clock p
  case tickEvent => exact s.onHub_clock fun h => Hub.keepsClock_of_same rfl rfl rfl rfl
  case deadlineDue => exact ⟨_, rfl, s.toHub.moveDue_clock⟩
  case keepaliveLapse l => exact ⟨_, rfl, (s.toHub.lapse_lines l).clock⟩
  case lineBreak l => exact s.onHub_lines fun h => h.lineBreak_lines l
  case settlingComplete l => exact s.onHub_lines fun _ => rfl
  case receiveError l cause => exact s.onHub_lines fun _ => by split <;> rfl
  case abortMark l => exact s.onHub_lines fun _ => by split <;> rfl
  case unknownKind l | hello l | bye l | ping l | linkStatus l | objectRequest l =>
    exact s.onHub_lines fun h => h.closeGood_lines l _
  case sessionEndTeardown l => exact s.onHub_lines fun _ => by split <;> rfl
  case frameComplete l => exact s.onHub_lines fun h => h.frameCompletes_lines l
  case goodCharacter l v => exact s.onHub_lines fun h => h.goodCharacter_lines l v
  all_goals cases takes

/-- What a command makes of the deadline list and of intake T. -/
theorem exec_timed (c : Instr) (s : State) (distinct : s.toHub.StampsDistinct) (queues : s.toHub.QueuesSound)
    (sound : s.toHub.ListsSound) (clocked : s.toHub.Clocked Hub.everyone) :
    ∃ t, exec c s = .next t ∧ Hub.Timed s.toHub t.toHub := by
  have caught : Hub.KeepsClock Hub.everyone s.toHub s.toHub.catchUp := s.toHub.catchUp_clock
  rcases takes : c.takesItem
  · obtain ⟨t, run, keeps⟩ := exec_clock s takes
    exact ⟨t, run, keeps.timed distinct clocked⟩
  · rcases exec_item s takes with idle | ⟨ticks, turn, given, rfl⟩
    · exact ⟨_, idle, caught.timed distinct clocked⟩
    · have queues' := (Hub.keeps_of_records s.toHub.catchUp_records).keepsEngine.queues queues
      exact ⟨_, exec_turn ticks given, caught.andThen s.toHub.catchUp_tick (Hub.turn_timed ticks given (caught.stamps distinct)
        queues' (sound.of_same_records s.toHub.catchUp_records) (caught.clocked distinct clocked))⟩

theorem step_timed (s : State) (distinct : s.toHub.StampsDistinct) (queues : s.toHub.QueuesSound)
    (sound : s.toHub.ListsSound) (clocked : s.toHub.Clocked Hub.everyone) :
    ∃ t, step s = .next t ∧ Hub.Timed s.toHub t.toHub := by
  unfold step
  split
  · obtain ⟨t, run, keeps⟩ := s.onHub_lines (f := Hub.charTime) fun _ => rfl
    exact ⟨t, run, keeps.timed distinct clocked⟩
  · rename_i c rest _
    exact exec_timed c { s with pending := rest } distinct queues sound clocked

/-- Settles O56: stamps and tags by the records that a step leaves, the deadline list by what each command does to entries and
waits; an entry is claimed for a new waiter alone, whose stamp is the youngest. -/
theorem stepKeepsStampsAndTagsDistinct : Obligations.StepKeepsStampsAndTagsDistinct := by
  refine ⟨fun s t distinct tags run => ⟨(step_keepsEngine run).stamps distinct, (step_keepsEngine run).tags tags⟩, ?_⟩
  rintro s t ⟨-, queues, distinct, tags, lists, overdue⟩ deadlines run
  obtain ⟨t', run', timed⟩ := step_timed s distinct queues ((Hub.listsSound_iff distinct).2 ⟨lists, overdue⟩) deadlines.clocked
  cases run.symm.trans run'
  exact ⟨timed.clocked.deadlinesSound ((step_keepsEngine run).tags tags), timed.ordered⟩

end Sys2Proof.Machine
end

section
/-! The requests that move a message: what SEND appends and what RECEIVE claims (R77 to R81), and the invariant of the queues. -/

namespace Sys2Proof.Machine

/-- Settles O57: every step keeps message lists, areas and draining queues, by what it keeps of each slot. -/
theorem stepKeepsQueuesSound : Obligations.StepKeepsQueuesSound :=
  fun _ _ sound run => (step_keepsEngine run).queues sound

/-- The body that carries a stored payload (R180, R182): the payload stands behind the 4 bytes of its header. -/
theorem payloadBody_payload (hd : Handle) (seq : Half) (deliveries : Nat) (q : Queue) (mem : Memory) (m : Message) :
    payloadBody hd seq deliveries (q.payload mem m) =
      [byteOf hd.gen, byteOf hd.slot] ++ bytes16 seq.toNat ++ [byteOf deliveries] ++ bytes16 m.length ++
        q.readBytes mem (m.offset + 4) m.length := by
  simp only [payloadBody, Handle.bytes, Queue.payload, Queue.length_readBytes]

/-- Settles O42: without a failing check and with a READY message, RECEIVE claims the oldest one and answers with it. -/
theorem receiveClaimsTheOldestReady : Obligations.ReceiveClaimsTheOldestReady := by
  intro s l rq hd priority timeout ticks h takes is passes ready
  have run : exec (.receive ticks) s = .next (s.withHub ((h.takeFrom l).receive ticks l rq hd priority timeout)) :=
    exec_request_of ticks takes is
  clear_value h
  obtain ⟨i, o, q, names, live, part, atOnce, -⟩ :=
    ((h.takeFrom l).receive_spec ticks l rq hd priority timeout is).2 passes
  obtain ⟨older, m, newer, messages, before, oldest, eq⟩ := atOnce ready
  refine ⟨i, o, q, older, m, newer, names, live, part, messages, before, oldest, ?_⟩
  intro m'
  have claimed : m.claim ⟨l, rq.session, .response⟩ = m' := by rw [Message.claim, saturate8_eq_min]
  rw [run, eq, claimed, payloadBody_payload]
  rfl

namespace Queue

theorem readyCount_accept {q : Queue} {m : Message} (ready : m.state = .ready) :
    (q.accept m).readyCount = q.readyCount + 1 := by
  simp [readyCount, accept, Message.isReady, ready]

/-- A READY message reaches the threshold when the count before it stood one below (R80). -/
theorem crossed_accept {q : Queue} {m : Message} (ready : m.state = .ready) :
    (q.accept m).crossed q.readyCount (q.accept m).readyCount =
      if q.threshold ≠ 0 ∧ q.readyCount + 1 = q.threshold then q.companion else none := by
  have reached : (q.threshold ≠ 0 ∧ q.readyCount < q.threshold ∧ q.threshold ≤ q.readyCount + 1) ↔
      (q.threshold ≠ 0 ∧ q.readyCount + 1 = q.threshold) := by omega
  rw [readyCount_accept ready]
  exact if_congr reached rfl rfl

end Queue

namespace Hub

/-- An accepted SEND on a queue without receive waiters: the message is READY, and the threshold check runs (R77, R80). -/
theorem acceptSend_ready {h : Hub} (l : Link) (rq : Request) {i : Fin 48} {o : Obj} {q : Queue} (payload : List Byte)
    (live : (h.slot i).state = .live o) (alone : q.waitList = []) :
    h.acceptSend l rq i q payload =
      let h' := h.sent l rq i o q payload (q.newMessage payload) []
      (if q.threshold ≠ 0 ∧ q.readyCount + 1 = q.threshold then q.companion else none).elim h' h'.signalCompanion := by
  have set (p : Part) : (h.storeMessage q payload).setPart i p = (h.storeMessage q payload).setLive i o p :=
    setPart_live (h := h.storeMessage q payload) live p
  have list (m : Message) : ({ q.accept m with waitList := [] } : Queue) = q.accept m := by rw [← alone]; rfl
  simp only [acceptSend, alone, List.head?_nil, Option.bind_none, sent, list, set,
    Queue.crossed_accept (m := q.newMessage payload) rfl]
  generalize (if q.threshold ≠ 0 ∧ q.readyCount + 1 = q.threshold then q.companion else none) = called
  cases called <;> rfl

/-- An accepted SEND on a queue with a head waiter: the message is claimed for it and delivered after the response (R77). -/
theorem acceptSend_claimed {h : Hub} (l : Link) (rq : Request) {i : Fin 48} {o : Obj} {q : Queue} (payload : List Byte)
    {st : Stamp} {rest : List Stamp} {w : Waiter} (live : (h.slot i).state = .live o) (list : q.waitList = st :: rest)
    (found : h.findWaiter st = some w) :
    h.acceptSend l rq i q payload =
      let m := (q.newMessage payload).claim ⟨w.link, w.session, .notice⟩
      (h.sent l rq i o q payload m rest).deliver q w m := by
  have head : q.waitList.head?.bind h.findWaiter = some w := by rw [list]; exact found
  rcases acceptSend_cases l rq payload live with ⟨w', found', eq⟩ | ⟨no, -⟩
  · cases head.symm.trans found'
    rw [eq, list, List.tail_cons]
    exact deliver_area (q := q) (q' := { q.accept _ with waitList := rest }) _ rfl rfl w _
  · rw [head] at no; cases no

end Hub

/-- Settles O39: an accepted SEND by whether a receive waiter stands at the head of the wait list. -/
theorem sendAppendsAMessage : Obligations.SendAppendsAMessage := by
  intro s l rq hd payload h takes is passes
  have run : exec .send s = .next (s.withHub ((h.takeFrom l).send l rq hd payload)) := exec_request_of 0 takes is
  clear_value h
  obtain ⟨i, o, q, names, live, part, -, -, -, eq⟩ := ((h.takeFrom l).send_spec l rq hd payload is).2 passes
  rw [eq] at run
  refine ⟨i, o, q, names, live, part, ?_⟩
  intro mem m stored
  refine ⟨fun alone => ?_, fun st rest w list found => ?_⟩
  · rw [run, Hub.acceptSend_ready (h := h.takeFrom l) l rq payload live alone]
    rcases q.companion with _ | c
    · rw [ite_self]; rfl
    · by_cases reached : q.threshold ≠ 0 ∧ q.readyCount + 1 = q.threshold
      · simp only [if_pos reached]; rfl
      · simp only [if_neg reached]; rfl
  · intro m'
    rw [run, Hub.acceptSend_claimed (h := h.takeFrom l) l rq payload live list found, Hub.deliver_eq]
    rfl

end Sys2Proof.Machine
end

section
/-! The record of a message in its queue's area (R67, R68, R73): it reads back as stored, and it meets no payload that is retained in
the same area or in another. -/

namespace Sys2Proof.Machine
namespace Queue

/-! ### Addresses within an area -/

/-- An area that lies inside the packet memory holds its addresses without wrapping (R67). -/
theorem address_eq {q : Queue} (blocks : 1 ≤ q.blocks) (inside : q.base + q.blocks ≤ 256) (off : Nat) :
    q.address off = 64 * q.base + off % q.areaBytes := by
  have area : q.areaBytes = 64 * q.blocks := rfl
  have below : off % q.areaBytes < q.areaBytes := Nat.mod_lt _ (by omega)
  exact Nat.mod_eq_of_lt (show 64 * q.base + off % q.areaBytes < 16384 by omega)

/-- Places of an area that are less than its length apart have different addresses. -/
theorem address_add_inj {q : Queue} (blocks : 1 ≤ q.blocks) (inside : q.base + q.blocks ≤ 256) {off j k : Nat}
    (lj : j < q.areaBytes) (lk : k < q.areaBytes) (same : q.address (off + j) = q.address (off + k)) : j = k := by
  rw [address_eq blocks inside, address_eq blocks inside] at same
  have congr : off + j ≡ off + k [MOD q.areaBytes] := Nat.add_left_cancel same
  exact (congr.add_left_cancel' off).eq_of_lt_of_lt lj lk

/-- Areas that share no block share no address (R70). -/
theorem address_ne_of_apart {q q' : Queue} (blocks : 1 ≤ q.blocks) (inside : q.base + q.blocks ≤ 256)
    (blocks' : 1 ≤ q'.blocks) (inside' : q'.base + q'.blocks ≤ 256)
    (apart : areasShare q.base q.blocks q'.base q'.blocks = false) (off off' : Nat) : q.address off ≠ q'.address off' := by
  have area : q.areaBytes = 64 * q.blocks := rfl
  have area' : q'.areaBytes = 64 * q'.blocks := rfl
  have below : off % q.areaBytes < q.areaBytes := Nat.mod_lt _ (by omega)
  have below' : off' % q'.areaBytes < q'.areaBytes := Nat.mod_lt _ (by omega)
  simp only [areasShare, Bool.and_eq_false_iff, decide_eq_false_iff_not] at apart
  rw [address_eq blocks inside, address_eq blocks' inside']
  omega

/-! ### A run of bytes reads back -/

theorem getElem_readBytes (q : Queue) (m : Memory) (off n k : Nat) (lt : k < (q.readBytes m off n).length) :
    (q.readBytes m off n)[k] = m.read (q.address (off + k)) := by
  induction n generalizing off k with
  | zero => cases lt
  | succ n ih =>
    cases k with
    | zero => rfl
    | succ k => simp only [readBytes, List.getElem_cons_succ, ih, Nat.add_assoc, Nat.add_comm 1 k]

/-- A byte of a run that is no longer than the area reads as it was written. -/
theorem read_writeBytes_at {q : Queue} (blocks : 1 ≤ q.blocks) (inside : q.base + q.blocks ≤ 256) {m : Memory} (off : Nat)
    (bs : List Byte) (wf : m.wf = true) (short : bs.length ≤ q.areaBytes) (k : Nat) (lt : k < bs.length) :
    (q.writeBytes m off bs).read (q.address (off + k)) = bs[k] := by
  induction bs generalizing m off k with
  | nil => cases lt
  | cons b bs ih =>
    have rises : m.risesFrom 0 = true := (Bool.and_eq_true_iff.1 wf).1
    rw [List.length_cons] at short lt
    cases k with
    | zero =>
      rw [writeBytes, read_writeBytes_outside, Nat.add_zero, Memory.read_write_self rises, List.getElem_cons_zero]
      intro j lj same
      rw [Nat.add_assoc] at same
      have := address_add_inj blocks inside (by omega) (by omega) same
      omega
    | succ k =>
      rw [writeBytes, List.getElem_cons_succ, Nat.add_comm k 1, ← Nat.add_assoc]
      exact ih _ (Memory.write_wf b wf (q.address_lt off)) (by omega) k (by omega)

/-- What stands behind the first bytes of a run reads back whole. -/
theorem readBytes_writeBytes {q : Queue} (blocks : 1 ≤ q.blocks) (inside : q.base + q.blocks ≤ 256) {m : Memory} (off : Nat)
    (front bs : List Byte) (wf : m.wf = true) (short : (front ++ bs).length ≤ q.areaBytes) :
    q.readBytes (q.writeBytes m off (front ++ bs)) (off + front.length) bs.length = bs := by
  refine List.ext_getElem (q.length_readBytes _ _ _) fun k lt lt' => ?_
  rw [getElem_readBytes, Nat.add_assoc, read_writeBytes_at blocks inside off _ wf short _ (by simp [lt'])]
  simp

/-! ### The free part of the area -/

theorem add_length_le_footprint (n : Nat) : 4 + n ≤ footprint n := by
  unfold footprint; omega

/-- Round the area the newest message ends behind all the messages of the chain (R68). -/
theorem newest_ends_behind {q : Queue} : ∀ {m : Message} {ms : List Message}, q.chained (m :: ms) = true →
    ∀ x, (m :: ms).getLast? = some x →
      x.offset + footprint x.length ≡ m.offset + ((m :: ms).map fun y => footprint y.length).sum [MOD q.areaBytes]
  | m, [], _, x, last => by
    cases last
    exact Nat.ModEq.refl _
  | m, y :: ms, chain, x, last => by
    have rest := newest_ends_behind (chained_tail chain) x (by simpa using last)
    simp only [chained, Bool.and_eq_true, decide_eq_true_eq] at chain
    obtain ⟨⟨-, next⟩, -⟩ := chain
    have place : y.offset ≡ m.offset + footprint m.length [MOD q.areaBytes] := by rw [next]; exact Nat.mod_modEq _ _
    rw [List.map_cons, List.sum_cons, ← Nat.add_assoc]
    exact rest.trans (place.add_right _)

/-- The place of the next message lies behind each retained one, no further than the bytes in use (R68, R74). -/
theorem writeOffset_behind {q : Queue} {m : Message} (chain : q.chained q.messages = true) (mem : m ∈ q.messages) :
    ∃ behind, footprint m.length ≤ behind ∧ behind ≤ q.used ∧ q.writeOffset ≡ m.offset + behind [MOD q.areaBytes] := by
  obtain ⟨older, newer, messages⟩ := List.append_of_mem mem
  refine ⟨((m :: newer).map fun y => footprint y.length).sum, by simp, ?_, ?_⟩
  · simp only [used, messages, List.map_append, List.sum_append]; omega
  · obtain ⟨x, last⟩ : ∃ x, (m :: newer).getLast? = some x := ⟨_, List.getLast?_eq_getLast_of_ne_nil (List.cons_ne_nil m newer)⟩
    have newest : q.messages.getLast? = some x := by rw [messages, List.getLast?_append, last]; rfl
    rw [messages] at chain
    have ends := newest_ends_behind (chained_append_right older chain) x last
    rw [writeOffset, newest]
    exact (Nat.mod_modEq _ _).trans ends

/-- The record of a message that fits the free bytes meets no retained payload of its queue (R68, R74). -/
theorem payload_apart_from_new {q : Queue} {m : Message} {n : Nat} (fits : q.Fits) (chain : q.chained q.messages = true)
    (mem : m ∈ q.messages) (room : footprint n ≤ q.freeBytes) {j k : Nat} (lj : j < m.length) (lk : k < 4 + n) :
    q.address (m.offset + 4 + j) ≠ q.address (q.writeOffset + k) := by
  obtain ⟨blocks, -, inside, used, -, -, -⟩ := fits
  obtain ⟨behind, past, within, place⟩ := writeOffset_behind chain mem
  have record := add_length_le_footprint m.length
  have record' := add_length_le_footprint n
  have free : q.freeBytes = q.areaBytes - q.used := rfl
  have shifted : q.address (q.writeOffset + k) = q.address (m.offset + (behind + k)) := by
    rw [address_eq blocks inside, address_eq blocks inside, ← Nat.add_assoc]
    exact congrArg (64 * q.base + ·) (place.add_right k)
  rw [shifted, Nat.add_assoc]
  intro same
  have := address_add_inj blocks inside (by omega) (by omega) same
  omega

end Queue

/-- Settles O40: the record is no longer than the free part of the area, which begins where the newest message ends. -/
theorem storedPayloadsStayWhole : Obligations.StoredPayloadsStayWhole := by
  rintro h i o q payload ⟨sound, apart, -⟩ canonical there part room mem
  obtain ⟨fits, chain⟩ := sound i o q there part
  have ⟨blocks, _, inside, _⟩ := fits
  have record : (bytes32 payload.length ++ payload).length = 4 + payload.length := List.length_append
  have short : (bytes32 payload.length ++ payload).length ≤ q.areaBytes := by
    have := Queue.add_length_le_footprint payload.length
    have free : q.freeBytes = q.areaBytes - q.used := rfl
    omega
  refine ⟨Queue.readBytes_writeBytes blocks inside q.writeOffset _ payload canonical short, fun j o' q' m there' part' is => ?_⟩
  refine q'.readBytes_congr fun k lt => q.read_writeBytes_outside _ _ _ _ fun n ln => ?_
  by_cases e : i = j
  · subst e
    cases there.symm.trans there'
    cases part.symm.trans part'
    exact Queue.payload_apart_from_new fits chain is room lt (record ▸ ln)
  · obtain ⟨⟨blocks', -, inside', -⟩, -⟩ := sound j o' q' there' part'
    exact (Queue.address_ne_of_apart blocks inside blocks' inside'
      (apart i j o o' q q' there there' part part' e) _ _).symm

end Sys2Proof.Machine
end

section
/-! Who writes the packet memory (R67, R92): no operation of the engine but the storing of an accepted SEND, and no command but SEND and
PIN_RESET. -/

namespace Sys2Proof.Machine
namespace Hub

/-! ### The engine's shared operations -/

@[simp] theorem abandon_packetMemory (h : Hub) (st : Stamp) : (h.abandon st).packetMemory = h.packetMemory := by
  unfold abandon; split <;> simp

@[simp] theorem abandons_packetMemory (sts : List Stamp) (h : Hub) :
    (sts.foldl abandon h).packetMemory = h.packetMemory := by
  induction sts generalizing h with
  | nil => rfl
  | cons st sts ih => rw [List.foldl_cons, ih, abandon_packetMemory]

theorem grantHead_packetMemory {h h' : Hub} {i : Fin 48} {st : Stamp} (granted : h.grantHead i st = some h') :
    h'.packetMemory = h.packetMemory := by
  unfold grantHead at granted
  split at granted
  · obtain ⟨p, -, rfl⟩ := Option.map_eq_some_iff.1 granted
    simp [grant]
  · cases granted

@[simp] theorem grantPass_packetMemory (h : Hub) (i : Fin 48) : (h.grantPass i).packetMemory = h.packetMemory := by
  rw [grantPass]
  generalize h.waitListAt i = sts
  induction sts generalizing h with
  | nil => rfl
  | cons st sts ih =>
    rw [grantList]
    split
    · rename_i granted; rw [ih, grantHead_packetMemory granted]
    · rfl

@[simp] theorem passIfHead_packetMemory (h : Hub) (i : Fin 48) (wasHead : Bool) :
    (h.passIfHead i wasHead).packetMemory = h.packetMemory := by
  unfold passIfHead; split <;> simp

@[simp] theorem signalCompanion_packetMemory (h : Hub) (hd : Handle) :
    (h.signalCompanion hd).packetMemory = h.packetMemory := by
  rcases h.signalCompanion_cases hd with same | ⟨i, o, g, -, -, -, -, eq⟩
  · rw [same]
  · simp [eq]

@[simp] theorem setLive_packetMemory (h : Hub) (i : Fin 48) (o : Obj) (p : Part) :
    (h.setLive i o p).packetMemory = h.packetMemory := rfl

@[simp] theorem makeWaiter_packetMemory (h : Hub) (ticks : Nat) (l : Link) (rq : Request) (hd : Handle) (i : Fin 48)
    (d : Discipline) (op : WaitOp) (amount priority timeout : Nat) :
    (h.makeWaiter ticks l rq hd i d op amount priority timeout).packetMemory = h.packetMemory := by
  have ticked : (h.ticked ticks timeout).packetMemory = h.packetMemory := by unfold ticked; split <;> simp
  rw [makeWaiter_eq, claimFor_frame, reply_packetMemory]
  exact ticked

/-! ### The items that the engine takes -/

theorem freeWaiter_packetMemory (h : Hub) (st : Stamp) : (h.freeWaiter st).packetMemory = h.packetMemory := by
  unfold freeWaiter
  repeat' split
  all_goals rfl

theorem spendMessage_packetMemory (h : Hub) (l : Link) (ref : MessageRef) (session : Nat) (c : Carrier) :
    (h.spendMessage l ref session c).packetMemory = h.packetMemory := by
  rcases h.spendMessage_cases l ref session c with same | ⟨i, o, q, -, there, -, eq⟩
  · rw [same]
  · rw [eq, setReclaimed_eq there]; rfl

theorem expire_packetMemory (h : Hub) (st : Stamp) : (h.expire st).packetMemory = h.packetMemory := by
  unfold expire
  repeat' split
  all_goals simp [expireRecord]

theorem cancelWaiting_packetMemory (h : Hub) (l : Link) (rq : Request) (w : Waiter) :
    (h.cancelWaiting l rq w).packetMemory = h.packetMemory := by
  unfold cancelWaiting
  dsimp only
  split <;> split <;> simp

theorem hubReset_packetMemory (h : Hub) (l : Link) (rq : Request) : (h.hubReset l rq).packetMemory = h.packetMemory := by
  rcases right : h.manages l
  · have refused : h.hubReset l rq = h.refuse l rq .denied := by simp [hubReset, right]
    rw [refused, refuse_packetMemory]
  · rw [hubReset_frame rq right]

/-- A request that makes an object leaves the bytes of its area as they were. -/
theorem created_packetMemory {h h' : Hub} {l : Link} {rq : Request} {c : CreateCommon} {p : Part}
    (created : h.Created l rq c p h') : h'.packetMemory = h.packetMemory := by
  obtain ⟨i, -, -, rfl⟩ := created
  rw [create_eq, reply_packetMemory, setSlot_packetMemory]

/-- A request other than SEND writes no byte. -/
theorem perform_packetMemory {h : Hub} {l : Link} {rq : Request} (ticks : Nat) (noSend : ∀ hd p, rq.body ≠ .send hd p) :
    (rq.body.perform ticks l rq h).packetMemory = h.packetMemory := by
  rcases passes : h.refusal l rq with _ | code
  case some => rw [perform_refused ticks passes, refuse_packetMemory]
  rcases create : rq.body.common? with _ | c
  case some =>
    obtain ⟨p, -, created⟩ := perform_creates ticks create passes
    exact created_packetMemory created
  cases body : rq.body with
  | createResource c => rw [body] at create; cases create
  | createSignal c => rw [body] at create; cases create
  | createQueue c => rw [body] at create; cases create
  | delete hd =>
    obtain ⟨i, o, -, -, eq⟩ := (h.delete_spec l rq hd body).2 passes
    rw [ObjReq.perform, eq]
    split
    · simp
    · simp
    · simp [deleteQueue_eq]
  | lookup name =>
    obtain ⟨i, o, -, -, eq⟩ := (h.lookup_spec l rq name body).2 passes
    rw [ObjReq.perform, eq, reply_packetMemory]
  | query hd =>
    obtain ⟨i, o, -, -, eq⟩ := (h.query_spec l rq hd body).2 passes
    rw [ObjReq.perform, eq, reply_packetMemory]
  | setAccess hd access =>
    obtain ⟨i, o, -, -, -, eq⟩ := (h.setAccess_spec l rq hd access body).2 passes
    rw [ObjReq.perform, eq, reply_packetMemory, setSlot_packetMemory]
  | reclaim hd =>
    obtain ⟨i, o, r, -, -, -, -, eq⟩ := (h.reclaimTokens_spec l rq hd body).2 passes
    rw [ObjReq.perform, eq]; simp
  | acquire hd amount priority timeout =>
    obtain ⟨i, o, r, -, -, -, atOnce, blocked⟩ := (h.acquire_spec ticks l rq hd amount priority timeout body).2 passes
    rcases b : h.acquireBlocked hd amount
    · obtain ⟨-, -, eq⟩ := atOnce b
      rw [ObjReq.perform, eq]; simp
    · rw [ObjReq.perform, blocked b]
      split <;> simp
  | release hd amount =>
    obtain ⟨i, o, r, -, -, -, -, eq⟩ := (h.release_spec l rq hd amount body).2 passes
    rw [ObjReq.perform, eq]; simp
  | signal hd amount =>
    obtain ⟨i, o, g, -, -, -, -, eq⟩ := (h.signal_spec l rq hd amount body).2 passes
    rw [ObjReq.perform, eq]; simp
  | wait hd priority timeout =>
    obtain ⟨i, o, g, -, -, -, atOnce, blocked⟩ := (h.wait_spec ticks l rq hd priority timeout body).2 passes
    rcases b : h.waitBlocked hd
    · obtain ⟨-, -, eq⟩ := atOnce b
      rw [ObjReq.perform, eq]; simp
    · rw [ObjReq.perform, blocked b, makeWaiter_packetMemory]
  | cancel tag =>
    obtain ⟨w, -, -, -, -, eq⟩ := (h.cancel_spec l rq tag body).2 passes
    rw [ObjReq.perform, eq, cancelWaiting_packetMemory]
  | send hd payload => exact absurd body (noSend hd payload)
  | receive hd priority timeout =>
    obtain ⟨i, o, q, -, -, -, atOnce, blocked⟩ := (h.receive_spec ticks l rq hd priority timeout body).2 passes
    rcases b : h.receiveBlocked hd
    · obtain ⟨older, m, newer, -, -, -, eq⟩ := atOnce b
      rw [ObjReq.perform, eq]; simp
    · rw [ObjReq.perform, blocked b, makeWaiter_packetMemory]
  | flush hd =>
    obtain ⟨i, o, q, -, -, -, eq⟩ := (h.flush_spec l rq hd body).2 passes
    rw [ObjReq.perform, eq]; simp
  | evict target =>
    obtain ⟨t, -, -, eq⟩ := (h.evict_spec l rq target body).2 passes
    rw [ObjReq.perform, eq]; simp
  | hubReset => exact h.hubReset_packetMemory l rq

/-- An item whose command is not SEND writes no byte. -/
theorem turn_packetMemory (turn : Turn) (ticks : Nat) (h : Hub) (noSend : turn.command ticks ≠ .send) :
    (turn.perform ticks h).packetMemory = h.packetMemory :=
  match turn with
  | .item l (.request rq) => perform_packetMemory (h := h.takeFrom l) ticks fun hd p is => noSend <| by
      rw [Turn.command, is, ObjReq.command]
  | .item l (.freeWaiter st) => (h.takeFrom l).freeWaiter_packetMemory st
  | .item l (.spendMessage ref session c) => (h.takeFrom l).spendMessage_packetMemory l ref session c
  | .item l .purge => ((h.takeFrom l).purge_purged l).memory
  | .expiry st => h.takeExpiry.moveDue.expire_packetMemory st

/-! ### SEND -/

/-- An accepted SEND writes the header and the payload of its message (R68, R77). -/
theorem acceptSend_packetMemory {h : Hub} (l : Link) (rq : Request) {i : Fin 48} {o : Obj} (q : Queue) (payload : List Byte)
    (live : (h.slot i).state = .live o) :
    (h.acceptSend l rq i q payload).packetMemory =
      q.writeBytes h.packetMemory q.writeOffset (Queue.header payload.length ++ payload) := by
  rcases acceptSend_cases l rq payload live with ⟨w, -, eq⟩ | ⟨-, eq | ⟨c, eq⟩⟩
  · rw [eq, deliver, notice_packetMemory, endWait_packetMemory]; rfl
  · rw [eq]; rfl
  · rw [eq, signalCompanion_packetMemory]; rfl

/-- A SEND writes a run of bytes in a queue's area, or nothing. -/
theorem send_packetMemory {h : Hub} {l : Link} {rq : Request} {hd : Handle} {payload : List Byte}
    (body : rq.body = .send hd payload) :
    (h.send l rq hd payload).packetMemory = h.packetMemory ∨
      ∃ (q : Queue) (off : Nat) (bs : List Byte), (h.send l rq hd payload).packetMemory = q.writeBytes h.packetMemory off bs := by
  rcases passes : h.refusal l rq with _ | code
  · obtain ⟨i, o, q, -, live, -, -, -, -, eq⟩ := (h.send_spec l rq hd payload body).2 passes
    exact Or.inr ⟨q, _, _, by rw [eq, acceptSend_packetMemory l rq q payload live]⟩
  · rw [(h.send_spec l rq hd payload body).1 code passes]
    exact Or.inl (refuse_packetMemory _ _ _ _)

theorem OnlyLines.packetMemory {h h' : Hub} (lines : h.OnlyLines h') : h'.packetMemory = h.packetMemory := by
  rw [lines]

/-- Every item keeps the packet memory canonical. -/
theorem turn_memoryCanonical (turn : Turn) (ticks : Nat) {h : Hub} (canonical : h.MemoryCanonical) :
    (turn.perform ticks h).MemoryCanonical := by
  by_cases sends : turn.command ticks = .send
  · match turn, sends with
    | .item l (.request rq), sends =>
      cases body : rq.body <;> simp only [Turn.command, body, ObjReq.command, reduceCtorEq] at sends
      rename_i hd payload
      rw [Turn.perform, body, ObjReq.perform, MemoryCanonical]
      rcases send_packetMemory (h := h.takeFrom l) (l := l) body with same | ⟨q, off, bs, wrote⟩
      · rw [same]; exact canonical
      · rw [wrote]; exact q.writeBytes_wf off bs canonical
  · rw [MemoryCanonical, turn_packetMemory turn ticks h sends]
    exact canonical

end Hub

/-! ### Every command, every step -/

theorem State.onHub_packetMemory (s : State) {f : Hub → Hub} (same : ∀ h : Hub, (f h).packetMemory = h.packetMemory) :
    ∃ t, s.onHub f = .next t ∧ t.packetMemory = s.packetMemory :=
  ⟨_, s.onHub_next f, (same _).trans s.toHub.catchUp_packetMemory⟩

/-- A command that takes no item, other than PIN_RESET, writes no byte. -/
theorem exec_line_packetMemory {c : Instr} (s : State) (takes : c.takesItem = false) (noReset : ∀ p, c ≠ .pinReset p) :
    ∃ t, exec c s = .next t ∧ t.packetMemory = s.packetMemory := by
  cases c <;> dsimp only [exec]
  case pinReset p => exact absurd rfl (noReset p)
  case tickEvent => exact s.onHub_packetMemory fun _ => rfl
  case deadlineDue => exact ⟨_, rfl, rfl⟩
  case keepaliveLapse l => exact ⟨_, rfl, (s.toHub.lapse_lines l).packetMemory⟩
  case lineBreak l => exact s.onHub_packetMemory fun h => (h.lineBreak_lines l).packetMemory
  case settlingComplete l => exact s.onHub_packetMemory fun _ => rfl
  case receiveError l cause => exact s.onHub_packetMemory fun _ => by split <;> rfl
  case abortMark l => exact s.onHub_packetMemory fun _ => by split <;> rfl
  case unknownKind l | hello l | bye l | ping l | linkStatus l | objectRequest l =>
    exact s.onHub_packetMemory fun h => (h.closeGood_lines l _).packetMemory
  case sessionEndTeardown l => exact s.onHub_packetMemory fun _ => by split <;> rfl
  case frameComplete l => exact s.onHub_packetMemory fun h => (h.frameCompletes_lines l).packetMemory
  case goodCharacter l v => exact s.onHub_packetMemory fun h => (h.goodCharacter_lines l v).packetMemory
  all_goals cases takes

/-- A command other than SEND and PIN_RESET writes no byte. -/
theorem exec_packetMemory {c : Instr} (s : State) (noSend : c ≠ .send) (noReset : ∀ p, c ≠ .pinReset p) :
    ∃ t, exec c s = .next t ∧ t.packetMemory = s.packetMemory := by
  rcases takes : c.takesItem
  · exact exec_line_packetMemory s takes noReset
  · rcases exec_item s takes with idle | ⟨ticks, turn, given, rfl⟩
    · exact ⟨_, idle, s.toHub.catchUp_packetMemory⟩
    · exact ⟨_, exec_turn ticks given,
        (Hub.turn_packetMemory turn ticks _ noSend).trans s.toHub.catchUp_packetMemory⟩

theorem exec_memoryCanonical (c : Instr) {s : State} (canonical : s.toHub.MemoryCanonical) :
    ∃ t, exec c s = .next t ∧ t.toHub.MemoryCanonical := by
  have caught : s.toHub.catchUp.MemoryCanonical := by rw [Hub.MemoryCanonical, Hub.catchUp_packetMemory]; exact canonical
  rcases takes : c.takesItem
  · by_cases reset : ∃ p, c = .pinReset p
    · obtain ⟨p, rfl⟩ := reset
      exact ⟨_, exec_pinReset p s, rfl⟩
    · obtain ⟨t, run, same⟩ := exec_line_packetMemory s takes fun p is => reset ⟨p, is⟩
      exact ⟨t, run, by rw [Hub.MemoryCanonical, same]; exact canonical⟩
  · rcases exec_item s takes with idle | ⟨ticks, turn, given, rfl⟩
    · exact ⟨_, idle, caught⟩
    · exact ⟨_, exec_turn ticks given, Hub.turn_memoryCanonical turn ticks caught⟩

/-- Settles O53: a step writes bytes one by one inside the packet memory, or leaves it, or empties it. -/
theorem stepKeepsMemoryCanonical : Obligations.StepKeepsMemoryCanonical := by
  intro s t canonical run
  unfold step at run
  split at run
  · obtain ⟨t', run', same⟩ := s.onHub_packetMemory (f := Hub.charTime) fun _ => rfl
    cases run.symm.trans run'
    rw [Hub.MemoryCanonical, same]; exact canonical
  · rename_i c rest _
    obtain ⟨t', run', kept⟩ := exec_memoryCanonical c (s := { s with pending := rest }) canonical
    cases run.symm.trans run'
    exact kept

/-- Settles O41: no other command writes, a refusal is a response alone, and a SEND writes its record. -/
theorem onlySendWritesPacketMemory : Obligations.OnlySendWritesPacketMemory := by
  refine ⟨?_, ?_, ?_⟩
  · intro c s t run noSend noReset
    obtain ⟨t', run', same⟩ := exec_packetMemory s noSend noReset
    cases run.symm.trans run'
    exact same
  · intro l rq code ticks s t h takes fails run
    have before : h.packetMemory = s.packetMemory := s.toHub.catchUp_packetMemory
    have run' : exec (rq.body.command ticks) s = .next (s.withHub ((h.takeFrom l).reply l rq code [] none)) :=
      exec_refused ticks takes fails
    clear_value h
    cases run.symm.trans run'
    exact before
  · intro l rq hd payload q s t a h takes is passes queue run outside
    have run' : exec .send s = .next (s.withHub ((h.takeFrom l).send l rq hd payload)) := exec_request_of 0 takes is
    have before : h.packetMemory = s.packetMemory := s.toHub.catchUp_packetMemory
    clear_value h
    obtain ⟨i, o, q', names, live, part, -, -, -, eq⟩ := ((h.takeFrom l).send_spec l rq hd payload is).2 passes
    have there : h.objAt i = some o := by
      show (h.slot i).state.obj = some o
      rw [show (h.slot i).state = .live o from live]; rfl
    cases queue.symm.trans (Hub.queueOf_eq names there (by rw [part]; rfl))
    cases run.symm.trans run'
    have wrote := Hub.acceptSend_packetMemory (h := h.takeFrom l) l rq q payload live
    rw [← eq] at wrote
    have record : (Queue.header payload.length ++ payload).length = 4 + payload.length := List.length_append
    calc Memory.read ((h.takeFrom l).send l rq hd payload).packetMemory a
      _ = Memory.read (h.takeFrom l).packetMemory a := by
        rw [wrote]
        exact q.read_writeBytes_outside _ _ _ _ fun k lt => outside k (record ▸ lt)
      _ = Memory.read s.packetMemory a := congrArg (Memory.read · a) before

end Sys2Proof.Machine
end

section
/-! Tick values and the tick event: the two relations of R95 as arithmetic, what TICK_EVENT and its two further rows do, and that every
other command finds their work done (R93, R99, R151). -/

namespace Sys2Proof.Machine

/-! ### Tick values (R95) -/

theorem tickDue_iff (d n : Tick) :
    tickDue d n = true ↔ (n.toNat + (4294967296 - d.toNat)) % 4294967296 < 2147483648 := by
  rw [tickDue, decide_eq_true_eq, BitVec.toNat_sub, Nat.add_comm]

theorem tickEarlier_iff (d1 d2 : Tick) :
    tickEarlier d1 d2 = true ↔
      1 ≤ (d2.toNat + (4294967296 - d1.toNat)) % 4294967296 ∧
        (d2.toNat + (4294967296 - d1.toNat)) % 4294967296 ≤ 2147483647 := by
  rw [tickEarlier, Bool.and_eq_true, decide_eq_true_eq, decide_eq_true_eq, BitVec.toNat_sub]
  omega

theorem tickEarlier_self (d : Tick) : tickEarlier d d = false := by simp [tickEarlier]

/-- The distance between two ticks counted from a common one does not depend on it. -/
theorem toNat_sub_of_base (d : Tick) {a b : Nat} (lt : a < 4294967296) :
    ((d + BitVec.ofNat 32 b) - (d + BitVec.ofNat 32 a)).toNat = (b + (4294967296 - a)) % 4294967296 := by
  bv_omega

/-- Settles O6: every clause is a statement about the distance of two ticks modulo 2^32. -/
theorem tickRelationsAreModular : Obligations.TickRelationsAreModular := by
  refine ⟨tickDue_iff, tickEarlier_iff, fun T t k least most before => ?_, tickEarlier_self, fun d a b nearA nearB => ?_⟩
  · rw [tickDue, decide_eq_true_eq, toNat_sub_of_base T (by omega)]
    omega
  · rw [tickEarlier, Bool.and_eq_true, decide_eq_true_eq, decide_eq_true_eq, toNat_sub_of_base d (by omega)]
    omega

/-! ### The tick event and its two further rows (R93, R99, R138, R151) -/

theorem exec_tickEvent (s : State) : exec .tickEvent s = .next (s.withHub s.toHub.catchUp.tickEvent) := rfl

/-- What a tick event leaves of a link's record. -/
theorem Hub.tickAtLink_eq (k : LinkState) :
    tickAtLink k =
      { k with
        asm := if k.asm = .held then .settling else k.asm,
        keepaliveCount := if k.session = .active then k.keepaliveCount.map (fun n => n - 1) else k.keepaliveCount } := by
  by_cases held : k.asm = .held <;> by_cases active : k.session = .active <;> simp [tickAtLink, held, active]

theorem Hub.link_tickEvent (h : Hub) (l : Link) : h.tickEvent.link l = tickAtLink (h.link l) :=
  link_foldl_modLink { h with tick := h.tick + 1, ready := true } tickAtLink l

/-- Settles O5: TICK_EVENT is `Hub.tickEvent` after the catching up, whose frame and whose links stand apart. -/
theorem tickEventAdvancesTheCounter : Obligations.TickEventAdvancesTheCounter := by
  intro s h
  refine ⟨s.withHub h.tickEvent, exec_tickEvent s, ?_⟩
  clear_value h
  refine ⟨rfl, BitVec.toNat_add h.tick 1, fun l => ?_⟩
  exact (h.link_tickEvent l).trans (Hub.tickAtLink_eq _)

theorem Hub.lapsed_iff (h : Hub) (l : Link) :
    h.lapsed l = true ↔ (h.link l).session = .active ∧ (h.link l).keepaliveCount = some 0 := by
  rw [lapsed, Bool.and_eq_true, decide_eq_true_eq, decide_eq_true_eq]

/-- Settles O7: DEADLINE_DUE is the moving of the due entries alone, KEEPALIVE_LAPSE the lapse of the one link. -/
theorem tickEventHalves : Obligations.TickEventHalves := by
  refine ⟨fun s => ⟨_, exec_deadlineDue s, rfl, s.toHub.moveDue_dueMovedTo⟩, fun l s => ?_⟩
  rw [exec_keepaliveLapse]
  by_cases lapsed : s.toHub.lapsed l = true
  · rw [if_pos ((s.toHub.lapsed_iff l).1 lapsed), Hub.lapse_of_lapsed lapsed]
  · rw [if_neg (mt (s.toHub.lapsed_iff l).2 lapsed), Hub.lapse_of_not (Bool.eq_false_iff.2 lapsed)]
    rfl

/-- The catching up moves the due entries; the lapses after it touch neither the list nor intake T. -/
theorem Hub.catchUp_dueMovedTo (h : Hub) : h.DueMovedTo h.catchUp := by
  rw [DueMovedTo, catchUp_deadlines, catchUp_expiryIntake]
  exact h.moveDue_dueMovedTo

/-- Settles O8: the catching up of every other command, its frame, and the whole tick events that an engine item may hold. -/
theorem otherCommandsFindTheTickEventDone : Obligations.OtherCommandsFindTheTickEventDone := by
  refine ⟨fun s => ⟨_, exec_tickEvent s, rfl, fun n => Hub.tickEvents_succ n s.toHub.catchUp⟩,
    fun c s catches => (exec_withHub_catchUp c s catches).symm, fun h => ⟨?_, h.catchUp_dueMovedTo, h.link_catchUp⟩⟩
  rw [Hub.catchUp_deadlines, Hub.catchUp_expiryIntake]
  exact h.catchUp_frame

end Sys2Proof.Machine
end

section
/-! What a link answers to a well-formed frame by itself, on an ACTIVE link: PING with the tick, LINK_STATUS by its checks (R147 to R149). -/

namespace Sys2Proof.Machine

/-! ### A well-formed frame that is served (R130, R141, R161) -/

theorem RxFrame.verdict_of_wellFormed {f : RxFrame} {r : ReqKind} (kind : ReqKind.ofCode f.kind = some r) (status : f.status = 0)
    (flags : f.flags = 0) (ok : bodyWellFormed r f.body = true) : f.verdict = .wellFormed (requestOf r f.tag f.body) := by
  simp [verdict, kind, status, flags, ok]

@[simp] theorem LinkState.accepted_session (k : LinkState) (i : Fin 4) : (k.accepted i).session = k.session := rfl
@[simp] theorem LinkState.accepted_manage (k : LinkState) (i : Fin 4) : (k.accepted i).manage = k.manage := rfl

/-- The link's own answer is `LinkState.answer` at its record (R166). -/
theorem Hub.linkAnswer_setLink (h : Hub) (l : Link) (k : LinkState) (i : Fin 4) (f : RxFrame) (code : ResultCode)
    (body : List Byte) : (h.setLink l k).linkAnswer l i f.kind f.tag code body = h.setLink l (k.answer i f code body) := by
  rw [linkAnswer, modLink, link_setLink_self, setLink_setLink]
  rfl

/-- The command of a frame that an IDLE or ACTIVE link with a free slot can take serves it in the lowest one. -/
theorem exec_served {s : State} {l : Link} {f : RxFrame} {i : Fin 4} (closes : s.toHub.catchUp.ClosesOn l f)
    (notEnding : (s.toHub.catchUp.link l).session ≠ .ending) (lowest : (s.toHub.catchUp.link l).LowestFree i) :
    exec (f.command l) s =
      .next (s.withHub ((s.toHub.catchUp.setLink l ((s.toHub.catchUp.link l).accepted i)).serve l i f)) := by
  rw [exec_command closes, Hub.goodFrame_serve f notEnding lowest]

/-! ### Link bytes (R176) -/

theorem linkOf_linkNumber (t : Link) : linkOf (linkNumber t) = some t := by cases t <;> rfl

theorem linkOf_of_le {n : Nat} (le : 4 ≤ n) : linkOf n = none := by
  refine List.find?_eq_none.2 fun t _ => ?_
  have small : linkNumber t < 4 := by cases t <;> decide
  simp only [beq_iff_eq]
  omega

/-! ### PING and LINK_STATUS (R147, R148, R149, R181) -/

namespace Hub

theorem serve_ping {h : Hub} {l : Link} {i : Fin 4} {f : RxFrame} (verdict : f.verdict = .wellFormed .ping)
    (active : (h.link l).session = .active) :
    h.serve l i f = h.linkAnswer l i f.kind f.tag .ok (bytes32 h.tick.toNat) := by
  simp only [serve, verdict, servePing, if_pos active]

theorem serve_linkStatus {h : Hub} {l : Link} {i : Fin 4} {f : RxFrame} {target : Nat}
    (verdict : f.verdict = .wellFormed (.linkStatus target)) (active : (h.link l).session = .active) :
    (linkOf target = none → h.serve l i f = h.linkAnswer l i f.kind f.tag .outOfRange []) ∧
    ∀ t, linkOf target = some t →
      (t ≠ l → h.manages l = false → h.serve l i f = h.linkAnswer l i f.kind f.tag .denied []) ∧
      (t = l ∨ h.manages l = true → h.serve l i f = h.linkAnswer l i f.kind f.tag .ok (h.linkStatusBody t)) := by
  simp only [serve, verdict, serveLinkStatus, if_pos active]
  refine ⟨fun none => by rw [none], fun t some => ⟨fun other denied => ?_, fun allowed => ?_⟩⟩
  · simp only [some, if_pos (And.intro other denied)]
  · have passes : ¬ (t ≠ l ∧ h.manages l = false) := fun ⟨other, denied⟩ =>
      allowed.elim other fun manages => by simp [manages] at denied
    simp only [some, if_neg passes]

/-- The snapshot with the label's length byte among the fixed bytes before it (R181). -/
theorem linkStatusBody_eq (h : Hub) (t : Link) :
    h.linkStatusBody t =
      [(h.link t).session.byte, byteOf (h.link t).sessionNo, rightsByte (h.link t).manage, byteOf (h.link t).label.length] ++
        (h.link t).label ++
        [byteOf (h.link t).slotsInUse, byteOf (h.owned t), byteOf (h.link t).txList.length] ++
        bytes16 (h.link t).frameErrors ++ bytes16 (h.link t).overruns ++ bytes16 (h.link t).sessionsBegun ++
        bytes32 h.tick.toNat := by
  simp [linkStatusBody, namedBytes]

end Hub

/-- Settles O21: the frame is served in its slot; LINK_STATUS by the link its byte names and the right to ask for it. -/
theorem pingAndLinkStatusAreAnswered : Obligations.PingAndLinkStatusAreAnswered := by
  constructor
  · intro s l f i h k closes active lowest kind status flags body
    have ping : ReqKind.ofCode f.kind = some .ping := by rw [kind]; rfl
    have verdict : f.verdict = .wellFormed .ping := RxFrame.verdict_of_wellFormed ping status flags (by rw [body]; rfl)
    have command : f.command l = .ping l := by simp only [RxFrame.command, ping]
    have active' : ((h.setLink l (k.accepted i)).link l).session = .active := by simpa using active
    rw [← command, exec_served closes (by rw [active]; decide) lowest, Hub.serve_ping verdict active', Hub.linkAnswer_setLink,
      Hub.setLink_tick]
  · intro s l f i b h k answered closes active lowest kind status flags body
    have linkStatus : ReqKind.ofCode f.kind = some .linkStatus := by rw [kind]; rfl
    have verdict : f.verdict = .wellFormed (.linkStatus b.toNat) := by
      rw [RxFrame.verdict_of_wellFormed linkStatus status flags (by rw [body]; rfl), body]; rfl
    have command : f.command l = .linkStatus l := by simp only [RxFrame.command, linkStatus]
    have active' : ((h.setLink l (k.accepted i)).link l).session = .active := by simpa using active
    have manages : (h.setLink l (k.accepted i)).manages l = k.manage := by simp [Hub.manages]
    have run {code : ResultCode} {reply : List Byte}
        (serve : (h.setLink l (k.accepted i)).serve l i f =
          (h.setLink l (k.accepted i)).linkAnswer l i f.kind f.tag code reply) :
        exec (.linkStatus l) s = .next (answered code reply) := by
      rw [← command, exec_served closes (by rw [active]; decide) lowest, serve, Hub.linkAnswer_setLink]
    obtain ⟨outOfRange, named⟩ := Hub.serve_linkStatus (i := i) verdict active'
    clear_value h
    refine ⟨fun above => run (outOfRange (linkOf_of_le above)), fun t number => ?_⟩
    obtain ⟨denied, shown⟩ := named t (by rw [← number]; exact linkOf_linkNumber t)
    rw [manages] at denied shown
    refine ⟨fun other noRight => run (denied other noRight), fun allowed => ?_⟩
    rw [run (shown allowed), Hub.linkStatusBody_eq]
    rfl

end Sys2Proof.Machine
end

section
/-! What the engine's output does to the links (R109, R118, R167): a response or a notice changes of a link's record only LOSS, the
transmit list, the frame in transmission and the service window, and a notice not even the window. -/

namespace Sys2Proof.Machine

/-! ### One link -/

namespace LinkState

/-- From `k` to `k'` the link has at most been given responses and notices, or has released slots of responses (R167). -/
def Answered (k k' : LinkState) : Prop :=
  k' = { k with loss := k'.loss, txList := k'.txList, tx := k'.tx, window := k'.window }

/-- From `k` to `k'` the link has at most been given notices. -/
def Noticed (k k' : LinkState) : Prop := k' = { k with loss := k'.loss, txList := k'.txList, tx := k'.tx }

theorem Answered.refl (k : LinkState) : k.Answered k := rfl

theorem Answered.trans {k k' k'' : LinkState} (first : k.Answered k') (second : k'.Answered k'') : k.Answered k'' := by
  unfold Answered at *
  rw [second, first]

theorem Noticed.refl (k : LinkState) : k.Noticed k := rfl

theorem Noticed.trans {k k' k'' : LinkState} (first : k.Noticed k') (second : k'.Noticed k'') : k.Noticed k'' := by
  unfold Noticed at *
  rw [second, first]

theorem Noticed.answered {k k' : LinkState} (noticed : k.Noticed k') : k.Answered k' := by
  unfold Answered Noticed at *
  rw [noticed]

theorem noticed_beginFrame (k : LinkState) (shared : Bool) : k.Noticed (k.beginFrame shared) := by
  unfold beginFrame; split <;> rfl

theorem noticed_enqueue (k : LinkState) (shared : Bool) (item : TxItem) : k.Noticed (k.enqueue shared item) := by
  have appended : k.Noticed { k with txList := k.txList ++ [item] } := rfl
  unfold enqueue
  dsimp only
  split
  · exact appended.trans (noticed_beginFrame _ shared)
  · exact appended

end LinkState

namespace Hub

/-! ### The hub -/

/-- What the engine never changes but by the tick events within an item: the tick, READY and the line speed. -/
def clock (h : Hub) : Tick × Bool × LineSpeed := (h.tick, h.ready, h.speed)

/-- From `h` to `h'` the clock stands, and of the links only notices are new, at links of `dest` alone. -/
structure Notifies (dest : Link → Prop) (h h' : Hub) : Prop where
  clock : h'.clock = h.clock
  noticed : ∀ m, (h.link m).Noticed (h'.link m)
  silent : ∀ m, ¬ dest m → h'.link m = h.link m

/-- From `h` to `h'` the clock stands, and of the links only responses and notices are new. -/
structure Outputs (h h' : Hub) : Prop where
  clock : h'.clock = h.clock
  answered : ∀ m, (h.link m).Answered (h'.link m)

/-- The hub outside the engine: the clock and the links. -/
def lines (h : Hub) : (Tick × Bool × LineSpeed) × PerLink LinkState := (h.clock, h.links)

theorem clock_of_lines {h h' : Hub} (same : h'.lines = h.lines) : h'.clock = h.clock := congrArg Prod.fst same

theorem link_of_lines {h h' : Hub} (same : h'.lines = h.lines) (m : Link) : h'.link m = h.link m :=
  congrArg (fun links => links.get m) (congrArg Prod.snd same)

section
variable {dest : Link → Prop}

theorem notifies_of_lines {h h' : Hub} (same : h'.lines = h.lines) : Notifies dest h h' where
  clock := clock_of_lines same
  noticed := fun m => by rw [link_of_lines same]; exact .refl _
  silent := fun m _ => link_of_lines same m

theorem Notifies.refl (h : Hub) : Notifies dest h h := notifies_of_lines rfl

theorem Notifies.trans {h h' h'' : Hub} (first : Notifies dest h h') (second : Notifies dest h' h'') : Notifies dest h h'' where
  clock := second.clock.trans first.clock
  noticed := fun m => (first.noticed m).trans (second.noticed m)
  silent := fun m out => (second.silent m out).trans (first.silent m out)

end

theorem outputs_of_lines {h h' : Hub} (same : h'.lines = h.lines) : h.Outputs h' where
  clock := clock_of_lines same
  answered := fun m => by rw [link_of_lines same]; exact .refl _

theorem Outputs.refl (h : Hub) : h.Outputs h := outputs_of_lines rfl

theorem Outputs.trans {h h' h'' : Hub} (first : h.Outputs h') (second : h'.Outputs h'') : h.Outputs h'' where
  clock := second.clock.trans first.clock
  answered := fun m => (first.answered m).trans (second.answered m)

theorem Notifies.outputs {dest : Link → Prop} {h h' : Hub} (notifies : Notifies dest h h') : h.Outputs h' :=
  ⟨notifies.clock, fun m => (notifies.noticed m).answered⟩

/-! ### Responses and notices (R110, R118, R167) -/

theorem link_handOver_self (h : Hub) (l : Link) (session : Nat) (item : TxItem) :
    (h.link l).Answered ((h.handOver l session item).link l) := by
  rw [handOver, link_modLink_self]
  split
  · exact (LinkState.noticed_enqueue _ _ _).answered
  · repeat' split
    all_goals rfl

theorem link_handOver_other (h : Hub) {l m : Link} (session : Nat) (item : TxItem) (ne : m ≠ l) :
    (h.handOver l session item).link m = h.link m := h.link_modLink_other _ ne

theorem reply_outputs (h : Hub) (l : Link) (rq : Request) (code : ResultCode) (body : List Byte) (msg : Option MessageRef) :
    h.Outputs (h.reply l rq code body msg) where
  clock := rfl
  answered := fun m => by
    by_cases is : m = l
    · subst is; exact h.link_handOver_self m _ _
    · rw [reply, link_handOver_other h _ _ is]; exact .refl _

/-- A notice goes to the record's link, and takes and releases no slot there. -/
theorem notice_notifies {dest : Link → Prop} {w : Waiter} (goes : dest w.link) (h : Hub) (kind : Byte) (body : List Byte)
    (msg : Option MessageRef) : Notifies dest h (h.notice w kind body msg) where
  clock := rfl
  noticed := fun m => by
    by_cases is : m = w.link
    · subst is
      rw [notice, handOver, link_modLink_self]
      split
      · exact LinkState.noticed_enqueue _ _ _
      · exact .refl _
    · rw [notice, link_handOver_other h _ _ is]; exact .refl _
  silent := fun m out => h.link_handOver_other _ _ fun is => out (is ▸ goes)

theorem endWait_lines (h : Hub) (w : Waiter) (st : WaiterState) (msg : Option Half) : (h.endWait w st msg).lines = h.lines := by
  rw [endWait_spec]; rfl

theorem abandon_outputs (h : Hub) (st : Stamp) : h.Outputs (h.abandon st) := by
  unfold abandon
  split
  · exact (outputs_of_lines (h.endWait_lines _ _ _)).trans (notice_notifies (dest := fun _ => True) trivial _ _ _ _).outputs
  · exact .refl h

theorem abandons_outputs (sts : List Stamp) (h : Hub) : h.Outputs (sts.foldl abandon h) := by
  induction sts generalizing h with
  | nil => exact .refl h
  | cons st sts ih => exact (h.abandon_outputs st).trans (ih _)

/-! ### The grant pass, the companion signalling and the hand-out -/

/-- The records of the stamps are of links in `dest`. -/
def OwnedBy (dest : Link → Prop) (h : Hub) (sts : List Stamp) : Prop :=
  ∀ st ∈ sts, ∀ w, h.findWaiter st = some w → dest w.link

/-- The records keep their links while their keys stay. -/
theorem OwnedBy.of_frame {dest : Link → Prop} {h h' : Hub} {sts : List Stamp} (owned : h.OwnedBy dest sts)
    (frame : h.KeepsFrame h') : h'.OwnedBy dest sts := by
  intro st mem w found
  have mine : h.mine w.link st = true := by rw [← frame.mine, Hub.mine, found]; exact decide_eq_true rfl
  obtain ⟨x, found', same⟩ := (Option.any_eq_true _ _).1 mine
  exact of_decide_eq_true same ▸ owned st mem x found'

theorem ownedBy_ofOthers {h : Hub} {l : Link} {sts : List Stamp} (others : ∀ st ∈ sts, h.mine l st = false) :
    h.OwnedBy (fun m => m ≠ l) sts := fun st mem _ found => link_ne_of_mine (others st mem) found

section
variable {dest : Link → Prop}

theorem setPart_notifies (h : Hub) (i : Fin 48) (p : Part) : Notifies dest h (h.setPart i p) := notifies_of_lines rfl

theorem grant_notifies {w : Waiter} (goes : dest w.link) (h : Hub) : Notifies dest h (h.grant w) :=
  (notifies_of_lines (h.endWait_lines _ _ _)).trans (notice_notifies goes _ _ _ _)

theorem deliver_notifies {w : Waiter} (goes : dest w.link) (h : Hub) (q : Queue) (m : Message) : Notifies dest h (h.deliver q w m) :=
  (notifies_of_lines (h.endWait_lines _ _ _)).trans (notice_notifies goes _ _ _ _)

theorem grantList_notifies (i : Fin 48) (sts : List Stamp) :
    ∀ {h : Hub}, h.OwnedBy dest sts → Notifies dest h (grantList i sts h) := by
  induction sts with
  | nil => exact fun _ => .refl _
  | cons st sts ih =>
    intro h owned
    rw [grantList]
    split
    · rename_i granted
      unfold grantHead at granted
      split at granted
      · rename_i o w _ found
        obtain ⟨p, -, rfl⟩ := Option.map_eq_some_iff.1 granted
        have rest : h.OwnedBy dest sts := fun x mem => owned x (List.mem_cons_of_mem _ mem)
        have goes : dest w.link := owned st List.mem_cons_self w found
        exact ((h.setPart_notifies i p).trans (grant_notifies goes _)).trans
          (ih (rest.of_frame ((h.setSlot_frame i _).trans (grant_frame _ w))))
      · cases granted
    · exact .refl h

theorem grantPass_notifies {h : Hub} {i : Fin 48} (owned : h.OwnedBy dest (h.waitListAt i)) : Notifies dest h (h.grantPass i) :=
  grantList_notifies i _ owned

theorem handOut_notifies (i : Fin 48) (sts : List Stamp) :
    ∀ {h : Hub}, h.OwnedBy dest sts → Notifies dest h (handOut i sts h) := by
  induction sts with
  | nil => exact fun _ => .refl _
  | cons st sts ih =>
    intro h owned
    rcases handOut_cons i st sts h with ⟨same, -⟩ | ⟨o, q, w, m, ms, -, -, found, -, eq⟩
    · rw [same]; exact .refl h
    · have rest : h.OwnedBy dest sts := fun x mem => owned x (List.mem_cons_of_mem _ mem)
      rw [eq]
      have goes : dest w.link := owned st List.mem_cons_self w found
      exact ((h.setPart_notifies i _).trans (deliver_notifies goes _ _ m)).trans
        (ih (rest.of_frame ((h.setSlot_frame i _).trans (deliver_frame (h.setPart i _) _ w m))))

theorem signalCompanion_notifies {h : Hub} (owned : ∀ sts, h.OwnedBy dest sts) (hd : Handle) :
    Notifies dest h (h.signalCompanion hd) := by
  rcases h.signalCompanion_cases hd with same | ⟨i, o, g, -, -, -, -, eq⟩
  · rw [same]; exact .refl h
  · rw [eq]
    exact (h.setPart_notifies i _).trans (grantPass_notifies (h := h.setPart i _) fun st _ => owned [st] st List.mem_cons_self)

end

theorem ownedBy_anyone (h : Hub) (sts : List Stamp) : h.OwnedBy (fun _ => True) sts := fun _ _ _ _ => trivial

theorem grantPass_outputs (h : Hub) (i : Fin 48) : h.Outputs (h.grantPass i) := (grantPass_notifies (h.ownedBy_anyone _)).outputs

theorem passIfHead_outputs (h : Hub) (i : Fin 48) (wasHead : Bool) : h.Outputs (h.passIfHead i wasHead) := by
  unfold passIfHead
  split
  · exact h.grantPass_outputs i
  · exact .refl h

theorem signalCompanion_outputs (h : Hub) (hd : Handle) : h.Outputs (h.signalCompanion hd) :=
  (signalCompanion_notifies h.ownedBy_anyone hd).outputs

end Hub
end Sys2Proof.Machine
end

section
/-! What each item that the engine takes does to the links, beside the tick events within an item (R97; log entry 27). -/

namespace Sys2Proof.Machine
namespace Hub

/-! ### Tick events within an item -/

/-- What tick events make of the clock and of the links depends on these alone (R93, R151). -/
theorem lines_tickEvents (n : Nat) : ∀ {h h' : Hub}, h'.lines = h.lines → (h'.tickEvents n).lines = (h.tickEvents n).lines := by
  induction n with
  | zero => exact id
  | succ n ih =>
    intro h h' same
    refine ih ?_
    have links : h'.tickEvent.catchUp.links = h.tickEvent.catchUp.links := PerLink.ext_get fun m => by
      show h'.tickEvent.catchUp.link m = h.tickEvent.catchUp.link m
      rw [link_catchUp, link_catchUp, link_tickEvent, link_tickEvent, link_of_lines same]
    have stands := clock_of_lines same
    simp only [clock, Prod.mk.injEq] at stands
    obtain ⟨tick, -, speed⟩ := stands
    simp only [lines, clock, links, catchUp_tick, catchUp_ready, catchUp_speed]
    rw [tickEvent_frame h, tickEvent_frame h', tick, speed]

/-- From `h` to `h'` only output is new, beside what some tick events do: `ticks` of them, or none. -/
def OutputsWithin (ticks : Nat) (h h' : Hub) : Prop := ∃ n, (n = 0 ∨ n = ticks) ∧ (h.tickEvents n).Outputs h'

theorem Outputs.within {h h' : Hub} (outputs : h.Outputs h') (ticks : Nat) : OutputsWithin ticks h h' := ⟨0, Or.inl rfl, outputs⟩

theorem OutputsWithin.andThen {ticks : Nat} {h h' h'' : Hub} (first : OutputsWithin ticks h h') (second : h'.Outputs h'') :
    OutputsWithin ticks h h'' :=
  have ⟨n, is, outputs⟩ := first
  ⟨n, is, outputs.trans second⟩

theorem OutputsWithin.of_lines {ticks : Nat} {h h' h'' : Hub} (same : h'.lines = h.lines) (within : OutputsWithin ticks h' h'') :
    OutputsWithin ticks h h'' :=
  have ⟨n, is, outputs⟩ := within
  ⟨n, is, (outputs_of_lines (lines_tickEvents n same)).trans outputs⟩

/-- A new waiter: the tick events before its claim, and the response WAITING (R48, R97). -/
theorem makeWaiter_within (h : Hub) (ticks : Nat) (l : Link) (rq : Request) (hd : Handle) (i : Fin 48) (d : Discipline) (op : WaitOp)
    (amount priority timeout : Nat) :
    OutputsWithin ticks h (h.makeWaiter ticks l rq hd i d op amount priority timeout) := by
  have ticked : ∃ n, (n = 0 ∨ n = ticks) ∧ h.ticked ticks timeout = h.tickEvents n := by
    unfold Hub.ticked
    split
    · exact ⟨0, Or.inl rfl, rfl⟩
    · exact ⟨ticks, Or.inr rfl, rfl⟩
  obtain ⟨n, is, eq⟩ := ticked
  refine ⟨n, is, ?_⟩
  rw [← eq, makeWaiter_eq]
  refine Outputs.trans (outputs_of_lines ?_) (reply_outputs _ _ _ _ _ _)
  rw [claimFor_frame]
  rfl

/-! ### Requests -/

theorem setLive_reply_outputs (h : Hub) (i : Fin 48) (o : Obj) (p : Part) (l : Link) (rq : Request) (code : ResultCode)
    (body : List Byte) (msg : Option MessageRef) : h.Outputs ((h.setLive i o p).reply l rq code body msg) :=
  Outputs.trans (h' := h.setLive i o p) (outputs_of_lines rfl) (reply_outputs _ _ _ _ _ _)

theorem setSlot_outputs (h : Hub) (i : Fin 48) (sl : Slot) : h.Outputs (h.setSlot i sl) := outputs_of_lines rfl

theorem acceptSend_outputs {h : Hub} (l : Link) (rq : Request) {i : Fin 48} {o : Obj} (q : Queue) (payload : List Byte)
    (live : (h.slot i).state = .live o) : h.Outputs (h.acceptSend l rq i q payload) := by
  have sent (m : Message) (ws : List Stamp) : h.Outputs (h.sent l rq i o q payload m ws) :=
    Outputs.trans (h' := h.storeMessage q payload) (outputs_of_lines rfl) (setLive_reply_outputs _ _ _ _ _ _ _ _ _)
  rcases acceptSend_cases l rq payload live with ⟨w, -, eq⟩ | ⟨-, eq | ⟨c, eq⟩⟩
  · rw [eq]; exact (sent _ _).trans (deliver_notifies (dest := fun _ => True) trivial _ _ _).outputs
  · rw [eq]; exact sent _ _
  · rw [eq]; exact (sent _ _).trans (signalCompanion_outputs _ c)

theorem cancelWaiting_outputs (h : Hub) (l : Link) (rq : Request) (w : Waiter) : h.Outputs (h.cancelWaiting l rq w) := by
  have freed (h : Hub) : h.Outputs ((if w.deadline.isSome then h.removeClaim w.stamp else h).freeRecord w.stamp) := by
    split <;> exact outputs_of_lines rfl
  unfold cancelWaiting
  dsimp only
  split
  · exact (((h.setSlot_outputs _ _).trans (freed _)).trans (reply_outputs _ _ _ _ _ _)).trans (passIfHead_outputs _ _ _)
  · exact (freed h).trans (reply_outputs _ _ _ _ _ _)

/-- A request other than EVICT and HUB_RESET: responses and notices, beside the tick events of one that waits. -/
theorem perform_within {h : Hub} {l : Link} {rq : Request} (ticks : Nat) (noEvict : ∀ target, rq.body ≠ .evict target)
    (noReset : rq.body ≠ .hubReset) : OutputsWithin (rq.body.command ticks).ticks h (rq.body.perform ticks l rq h) := by
  rcases passes : h.refusal l rq with _ | code
  case some => rw [perform_refused ticks passes]; exact (reply_outputs _ _ _ _ _ _).within _
  rcases create : rq.body.common? with _ | c
  case some =>
    obtain ⟨p, -, i, -, -, eq⟩ := perform_creates ticks create passes
    rw [eq, create_eq]
    exact ((h.setSlot_outputs i _).trans (reply_outputs _ _ _ _ _ _)).within _
  cases body : rq.body with
  | createResource c => rw [body] at create; cases create
  | createSignal c => rw [body] at create; cases create
  | createQueue c => rw [body] at create; cases create
  | delete hd =>
    obtain ⟨i, o, -, -, eq⟩ := (h.delete_spec l rq hd body).2 passes
    have abandons (ws : List Stamp) : h.Outputs (ws.foldl abandon (h.reply l rq .ok [] none)) :=
      (reply_outputs _ _ _ _ _ _).trans (abandons_outputs _ _)
    rw [ObjReq.perform, eq]
    split
    · exact ((h.setSlot_outputs i _).trans (reply_outputs _ _ _ _ _ _)).within _
    · exact ((abandons _).trans (setSlot_outputs _ i _)).within _
    · rw [deleteQueue_eq]; exact ((abandons _).trans (setSlot_outputs _ i _)).within _
  | lookup name =>
    obtain ⟨i, o, -, -, eq⟩ := (h.lookup_spec l rq name body).2 passes
    rw [ObjReq.perform, eq]; exact (reply_outputs _ _ _ _ _ _).within _
  | query hd =>
    obtain ⟨i, o, -, -, eq⟩ := (h.query_spec l rq hd body).2 passes
    rw [ObjReq.perform, eq]; exact (reply_outputs _ _ _ _ _ _).within _
  | setAccess hd access =>
    obtain ⟨i, o, -, -, -, eq⟩ := (h.setAccess_spec l rq hd access body).2 passes
    rw [ObjReq.perform, eq]; exact ((h.setSlot_outputs i _).trans (reply_outputs _ _ _ _ _ _)).within _
  | reclaim hd =>
    obtain ⟨i, o, r, -, -, -, -, eq⟩ := (h.reclaimTokens_spec l rq hd body).2 passes
    rw [ObjReq.perform, eq]; exact ((setLive_reply_outputs _ _ _ _ _ _ _ _ _).trans (grantPass_outputs _ i)).within _
  | acquire hd amount priority timeout =>
    obtain ⟨i, o, r, -, -, -, atOnce, blocked⟩ := (h.acquire_spec ticks l rq hd amount priority timeout body).2 passes
    rcases b : h.acquireBlocked hd amount
    · obtain ⟨-, -, eq⟩ := atOnce b
      rw [ObjReq.perform, eq]; exact (setLive_reply_outputs _ _ _ _ _ _ _ _ _).within _
    · rw [ObjReq.perform, blocked b]
      split
      · exact (makeWaiter_within _ _ _ _ _ _ _ _ _ _ _).andThen (grantPass_outputs _ i)
      · exact makeWaiter_within _ _ _ _ _ _ _ _ _ _ _
  | release hd amount =>
    obtain ⟨i, o, r, -, -, -, -, eq⟩ := (h.release_spec l rq hd amount body).2 passes
    rw [ObjReq.perform, eq]; exact ((setLive_reply_outputs _ _ _ _ _ _ _ _ _).trans (grantPass_outputs _ i)).within _
  | signal hd amount =>
    obtain ⟨i, o, g, -, -, -, -, eq⟩ := (h.signal_spec l rq hd amount body).2 passes
    rw [ObjReq.perform, eq]; exact ((setLive_reply_outputs _ _ _ _ _ _ _ _ _).trans (grantPass_outputs _ i)).within _
  | wait hd priority timeout =>
    obtain ⟨i, o, g, -, -, -, atOnce, blocked⟩ := (h.wait_spec ticks l rq hd priority timeout body).2 passes
    rcases b : h.waitBlocked hd
    · obtain ⟨-, -, eq⟩ := atOnce b
      rw [ObjReq.perform, eq]; exact (setLive_reply_outputs _ _ _ _ _ _ _ _ _).within _
    · rw [ObjReq.perform, blocked b]; exact makeWaiter_within _ _ _ _ _ _ _ _ _ _ _
  | cancel tag =>
    obtain ⟨w, -, -, -, -, eq⟩ := (h.cancel_spec l rq tag body).2 passes
    rw [ObjReq.perform, eq]; exact (h.cancelWaiting_outputs l rq w).within _
  | send hd payload =>
    obtain ⟨i, o, q, -, live, -, -, -, -, eq⟩ := (h.send_spec l rq hd payload body).2 passes
    rw [ObjReq.perform, eq]; exact (acceptSend_outputs l rq q payload live).within _
  | receive hd priority timeout =>
    obtain ⟨i, o, q, -, -, -, atOnce, blocked⟩ := (h.receive_spec ticks l rq hd priority timeout body).2 passes
    rcases b : h.receiveBlocked hd
    · obtain ⟨older, m, newer, -, -, -, eq⟩ := atOnce b
      rw [ObjReq.perform, eq]; exact (setLive_reply_outputs _ _ _ _ _ _ _ _ _).within _
    · rw [ObjReq.perform, blocked b]; exact makeWaiter_within _ _ _ _ _ _ _ _ _ _ _
  | flush hd =>
    obtain ⟨i, o, q, -, -, -, eq⟩ := (h.flush_spec l rq hd body).2 passes
    rw [ObjReq.perform, eq]; exact (setLive_reply_outputs _ _ _ _ _ _ _ _ _).within _
  | evict target => exact absurd body (noEvict target)
  | hubReset => exact absurd body noReset

/-! ### Reports and expiry items -/

theorem freeWaiter_lines (h : Hub) (st : Stamp) : (h.freeWaiter st).lines = h.lines := by
  unfold freeWaiter
  repeat' split
  all_goals rfl

theorem spendMessage_lines (h : Hub) (l : Link) (ref : MessageRef) (session : Nat) (c : Carrier) :
    (h.spendMessage l ref session c).lines = h.lines := by
  rcases h.spendMessage_cases l ref session c with same | ⟨i, o, q, -, there, -, eq⟩
  · rw [same]
  · rw [eq, setReclaimed_eq there]; rfl

theorem expireRecord_outputs (h : Hub) (w : Waiter) : h.Outputs (h.expireRecord w) :=
  Outputs.trans (h' := h.modWaiter w.stamp fun x => { x with state := .expired }) (outputs_of_lines rfl)
    (notice_notifies (dest := fun _ => True) trivial _ _ _ _).outputs

theorem expire_outputs (h : Hub) (st : Stamp) : h.Outputs (h.expire st) := by
  unfold expire
  repeat' split
  · exact .refl h
  · exact ((h.setSlot_outputs _ _).trans (expireRecord_outputs _ _)).trans (passIfHead_outputs _ _ _)
  · exact h.expireRecord_outputs _
  · exact .refl h

/-- An item other than an EVICT, a HUB_RESET or a purge. -/
theorem turn_within {turn : Turn} {ticks : Nat} (h : Hub) (noEvict : turn.command ticks ≠ .evict)
    (noReset : turn.command ticks ≠ .hubReset) (noPurge : turn.command ticks ≠ .purge) :
    OutputsWithin (turn.command ticks).ticks h (turn.perform ticks h) :=
  match turn with
  | .item l (.request rq) =>
    .of_lines (h' := h.takeFrom l) rfl (perform_within ticks (fun target is => noEvict (by rw [Turn.command, is]; rfl))
      fun is => noReset (by rw [Turn.command, is]; rfl))
  | .item l (.freeWaiter st) => .of_lines (h' := h.takeFrom l) rfl ((outputs_of_lines (freeWaiter_lines _ st)).within _)
  | .item l (.spendMessage ref session c) =>
    .of_lines (h' := h.takeFrom l) rfl ((outputs_of_lines (spendMessage_lines _ l ref session c)).within _)
  | .item _ .purge => absurd rfl noPurge
  | .expiry st =>
    have moved : h.Outputs h.takeExpiry.moveDue := outputs_of_lines rfl
    (moved.trans (expire_outputs _ st)).within _

end Hub
end Sys2Proof.Machine
end

section
/-! What EVICT, HUB_RESET and a purge do to the links (R113, R114, R157, R158); then every command of the engine. -/

namespace Sys2Proof.Machine

/-! ### The receiver of a link -/

/-- What the engine never touches of a link: the assembler, its buffer, the frame-error counter and the MANAGE right. -/
def LinkState.receiver (k : LinkState) : AsmState × List Byte × Nat × Bool := (k.asm, k.buffer, k.frameErrors, k.manage)

theorem LinkState.Answered.receiver {k k' : LinkState} (answered : k.Answered k') : k'.receiver = k.receiver := by
  rw [answered]; rfl

/-- What step 1 of a session end leaves of a link's record (R154). -/
def LinkState.ended (k : LinkState) (cause : EndCause) (tag : Byte) (held : Option Hello) : LinkState :=
  if k.session = .active then
    { k with session := .ending, keepaliveCount := none, heldHello := held, teardown := some ⟨cause, tag, false⟩ }
  else k

theorem LinkState.ended_eq (k : LinkState) (cause : EndCause) (tag : Byte) (held : Option Hello) :
    k.ended cause tag held =
      { k with session := (k.ended cause tag held).session, keepaliveCount := (k.ended cause tag held).keepaliveCount,
               heldHello := (k.ended cause tag held).heldHello, teardown := (k.ended cause tag held).teardown } := by
  unfold ended; split <;> rfl

namespace Hub

theorem endSession_eq (h : Hub) (l : Link) (cause : EndCause) (tag : Byte) (held : Option Hello) :
    h.endSession l cause tag held = h.setLink l ((h.link l).ended cause tag held) := rfl

/-- From `h` to `h'` the clock and every link's receiver stand. -/
structure KeepsReceivers (h h' : Hub) : Prop where
  clock : h'.clock = h.clock
  receivers : ∀ m, (h'.link m).receiver = (h.link m).receiver

theorem KeepsReceivers.trans {h h' h'' : Hub} (first : h.KeepsReceivers h') (second : h'.KeepsReceivers h'') :
    h.KeepsReceivers h'' where
  clock := second.clock.trans first.clock
  receivers := fun m => (second.receivers m).trans (first.receivers m)

theorem Outputs.keepsReceivers {h h' : Hub} (outputs : h.Outputs h') : h.KeepsReceivers h' :=
  ⟨outputs.clock, fun m => (outputs.answered m).receiver⟩

theorem modLink_keepsReceivers (h : Hub) (l : Link) {f : LinkState → LinkState}
    (keeps : (f (h.link l)).receiver = (h.link l).receiver) : h.KeepsReceivers (h.modLink l f) where
  clock := rfl
  receivers := fun m => by
    by_cases is : m = l
    · subst is; rw [link_modLink_self]; exact keeps
    · rw [link_modLink_other _ _ is]

theorem linkAnswer_keepsReceivers (h : Hub) (l : Link) (slot : Fin 4) (kind tag : Byte) (code : ResultCode) (body : List Byte) :
    h.KeepsReceivers (h.linkAnswer l slot kind tag code body) :=
  h.modLink_keepsReceivers l (LinkState.noticed_enqueue _ _ _).answered.receiver

theorem answerHello_keepsReceivers (h : Hub) (l : Link) (slot : Fin 4) (he : Hello) :
    h.KeepsReceivers (h.answerHello l slot he) := by
  unfold answerHello
  split
  · exact KeepsReceivers.trans (h.modLink_keepsReceivers l rfl) (linkAnswer_keepsReceivers _ _ _ _ _ _ _)
  · exact h.linkAnswer_keepsReceivers _ _ _ _ _ _

theorem leaveEnding_keepsReceivers (h : Hub) (l : Link) : h.KeepsReceivers (h.leaveEnding l) := by
  have left : h.KeepsReceivers (h.modLink l fun k => { k with session := .idle, heldHello := none }) :=
    h.modLink_keepsReceivers l rfl
  unfold leaveEnding
  rcases (h.link l).heldHello with _ | he
  · exact left
  · dsimp only
    split
    · exact left.trans (modLink_keepsReceivers _ l rfl)
    · exact (left.trans (modLink_keepsReceivers _ l rfl)).trans (answerHello_keepsReceivers _ l _ he)

theorem purgeCompletion_keepsReceivers (h : Hub) (l : Link) : h.KeepsReceivers (h.purgeCompletion l) := by
  unfold purgeCompletion
  split
  · exact h.leaveEnding_keepsReceivers l
  · exact (Outputs.refl h).keepsReceivers

/-! ### EVICT (R114) -/

/-- An EVICT ends at most the target's session, before the response. -/
theorem evict_cases (h : Hub) (l : Link) (rq : Request) (target : Nat) :
    h.Outputs (h.evict l rq target) ∨ ∃ t, (h.endSession t .evicted 0 none).Outputs (h.evict l rq target) := by
  unfold evict
  repeat' split
  · exact Or.inl (h.reply_outputs _ _ _ _ _)
  · exact Or.inl (h.reply_outputs _ _ _ _ _)
  · exact Or.inl (h.reply_outputs _ _ _ _ _)
  · exact Or.inr ⟨_, reply_outputs _ _ _ _ _ _⟩

theorem evict_keepsReceivers (h : Hub) (l : Link) (rq : Request) (target : Nat) : h.KeepsReceivers (h.evict l rq target) := by
  rcases h.evict_cases l rq target with outputs | ⟨t, outputs⟩
  · exact outputs.keepsReceivers
  · refine (h.modLink_keepsReceivers t ?_).trans outputs.keepsReceivers
    split <;> rfl

/-- An EVICT at one link: its record, or the record at the end of its session, and output. -/
theorem link_evict (h : Hub) (l : Link) (rq : Request) (target : Nat) (m : Link) :
    ∃ k, (k = h.link m ∨ k = (h.link m).ended .evicted 0 none) ∧ k.Answered ((h.evict l rq target).link m) := by
  rcases h.evict_cases l rq target with outputs | ⟨t, outputs⟩
  · exact ⟨_, Or.inl rfl, outputs.answered m⟩
  · refine ⟨_, ?_, outputs.answered m⟩
    rw [endSession_eq]
    by_cases is : m = t
    · subst is; rw [link_setLink_self]; exact Or.inr rfl
    · exact Or.inl (h.link_setLink_other _ is)

/-! ### HUB_RESET (R115, R158) -/

theorem tearDownAtReset_keepsReceivers (h : Hub) (l : Link) (t : Teardown) : h.KeepsReceivers (h.tearDownAtReset l t) :=
  h.modLink_keepsReceivers l (by simp [LinkState.receiver])

theorem resetLink_keepsReceivers (requester : Link) (tag : Byte) (h : Hub) (l : Link) :
    h.KeepsReceivers (resetLink requester tag h l) := by
  unfold resetLink
  split
  · exact (Outputs.refl h).keepsReceivers
  · exact (h.modLink_keepsReceivers l rfl).trans (tearDownAtReset_keepsReceivers _ l _)
  · split
    · exact (h.tearDownAtReset_keepsReceivers l _).trans (leaveEnding_keepsReceivers _ l)
    · exact h.leaveEnding_keepsReceivers l

theorem hubReset_denied {h : Hub} {l : Link} (rq : Request) (right : h.manages l = false) :
    h.hubReset l rq = h.refuse l rq .denied := by simp [hubReset, right]

theorem hubReset_keepsReceivers (h : Hub) (l : Link) (rq : Request) : h.KeepsReceivers (h.hubReset l rq) := by
  rcases right : h.manages l
  · rw [hubReset_denied rq right]; exact (h.reply_outputs l rq _ _ _).keepsReceivers
  · refine ⟨by rw [hubReset_frame rq right]; rfl, fun m => ?_⟩
    rw [link_hubReset rq right]
    exact (resetLink_keepsReceivers l rq.tag h m).receivers m

/-- The response of a refused request at an IDLE link is discarded, and releases at most a slot (R167). -/
theorem link_reply_idle {h : Hub} {m : Link} (idle : (h.link m).session = .idle) (l : Link) (rq : Request) (code : ResultCode)
    (body : List Byte) (msg : Option MessageRef) :
    (h.reply l rq code body msg).link m = { h.link m with window := ((h.reply l rq code body msg).link m).window } := by
  by_cases is : m = l
  · subst is
    rw [reply, handOver, link_modLink_self, if_neg (by simp [idle])]
    dsimp only
    split <;> rfl
  · rw [reply, link_handOver_other h _ _ is]

/-- HUB_RESET leaves an IDLE link as it is, but for a slot that its own refused request held. -/
theorem link_hubReset_idle {h : Hub} {m : Link} (idle : (h.link m).session = .idle) (l : Link) (rq : Request) :
    (h.hubReset l rq).link m = { h.link m with window := ((h.hubReset l rq).link m).window } ∧
      ((l = m → h.manages m = true) → (h.hubReset l rq).link m = h.link m) := by
  rcases right : h.manages l
  · rw [hubReset_denied rq right]
    refine ⟨link_reply_idle idle l rq _ _ _, fun allowed => h.link_handOver_other _ _ fun is => ?_⟩
    subst is
    exact absurd (allowed rfl) (by simp [right])
  · rw [link_hubReset rq right, resetLink_of_idle idle]
    exact ⟨rfl, fun _ => rfl⟩

/-! ### The purge (R113) -/

/-- A visit to a slot gives notices to the other links alone: the link's own waiters have left the list (R38, R87). -/
theorem purgeSlot_notifies (l : Link) (h : Hub) (i : Fin 48) : Notifies (fun m => m ≠ l) h (purgeSlot l h i).1 := by
  have others (o : Obj) (p : Part) (ws : List Stamp) :
      ((h.without l ws).setLive i o p).OwnedBy (fun m => m ≠ l) (h.kept l ws) :=
    ownedBy_ofOthers (h := (h.without l ws).setLive i o p) fun _ => mine_of_kept
  have set (o : Obj) (p : Part) (ws : List Stamp) : Notifies (fun m => m ≠ l) h ((h.without l ws).setLive i o p) :=
    notifies_of_lines rfl
  cases state : (h.slot i).state with
  | free => simp only [purgeSlot, state]; exact .refl h
  | live o =>
    cases part : o.part with
    | resource r =>
      rw [purgeSlot_resource l state part]
      dsimp only
      split
      · exact set _ _ _
      · exact (set _ _ _).trans (grantPass_notifies (by rw [waitListAt_setLive_self]; exact others _ _ _))
    | signal g =>
      rw [purgeSlot_signal l state part]
      dsimp only
      split
      · exact set _ _ _
      · exact (set _ _ _).trans (grantPass_notifies (by rw [waitListAt_setLive_self]; exact others _ _ _))
    | queue q =>
      rw [purgeSlot_liveQueue l state part]
      exact (set _ _ _).trans (handOut_notifies i _ (others _ _ _))
  | draining o =>
    cases part : o.part with
    | resource r | signal g => simp only [purgeSlot, state, part]; exact .refl h
    | queue q => rw [purgeSlot_drainingQueue l state part]; exact notifies_of_lines rfl

theorem purgeSlots_notifies (l : Link) (is : List (Fin 48)) (h : Hub) : Notifies (fun m => m ≠ l) h (purgeSlots l is h).1 := by
  induction is generalizing h with
  | nil => exact .refl h
  | cons i is ih => exact (purgeSlot_notifies l h i).trans (ih _)

/-- The companion signallings once no record of the link is left. -/
theorem signalCompanions_notifies (l : Link) (hds : List Handle) : ∀ {h : Hub}, (∀ st, h.mine l st = false) →
    Notifies (fun m => m ≠ l) h (hds.foldl signalCompanion h) := by
  induction hds with
  | nil => exact fun _ => .refl _
  | cons hd hds ih =>
    intro h gone
    have frame := (signalCompanion_clears (h.mine l) gone hd).1
    exact (signalCompanion_notifies (fun _ => ownedBy_ofOthers fun st _ => gone st) hd).trans
      (ih fun st => by rw [frame.mine]; exact gone st)

/-- A purge gives notices to the other links, and then completes at its own. -/
theorem purge_notifies (h : Hub) (l : Link) :
    ∃ h', h.purge l = h'.purgeCompletion l ∧ Notifies (fun m => m ≠ l) h h' := by
  have visited := purgeSlots_notifies l slotNumbers h
  unfold purge
  dsimp only
  generalize purgeSlots l slotNumbers h = v at visited ⊢
  have freed : Notifies (fun m => m ≠ l) v.1 { v.1 with waiters := v.1.waiters.filter fun w => w.link ≠ l } :=
    notifies_of_lines rfl
  exact ⟨_, rfl, (visited.trans freed).trans (signalCompanions_notifies l v.2 (v.1.mine_without_records l))⟩

theorem purge_keepsReceivers (h : Hub) (l : Link) : h.KeepsReceivers (h.purge l) := by
  obtain ⟨h', eq, notifies⟩ := h.purge_notifies l
  rw [eq]
  exact notifies.outputs.keepsReceivers.trans (h'.purgeCompletion_keepsReceivers l)

theorem link_purgeCompletion_congr {h h' : Hub} {l : Link} (link : h.link l = h'.link l) (tick : h.tick = h'.tick) :
    (h.purgeCompletion l).link l = (h'.purgeCompletion l).link l := by
  unfold purgeCompletion
  rw [link]
  split
  · exact link_leaveEnding_congr link tick
  · exact link

theorem link_purgeCompletion_other (h : Hub) {l m : Link} (ne : m ≠ l) : (h.purgeCompletion l).link m = h.link m := by
  unfold purgeCompletion
  split
  · exact h.link_leaveEnding_other ne
  · rfl

/-- What a purge does at its own link is the purge completion (R157). -/
theorem link_purge_self (h : Hub) (l : Link) : (h.purge l).link l = (h.purgeCompletion l).link l := by
  obtain ⟨h', eq, notifies⟩ := h.purge_notifies l
  rw [eq]
  exact link_purgeCompletion_congr (notifies.silent l fun ne => ne rfl) (congrArg Prod.fst notifies.clock)

theorem link_purge_other (h : Hub) {l m : Link} (ne : m ≠ l) : (h.link m).Noticed ((h.purge l).link m) := by
  obtain ⟨h', eq, notifies⟩ := h.purge_notifies l
  rw [eq, link_purgeCompletion_other h' ne]
  exact notifies.noticed m

/-! ### Every item of the engine -/

theorem turn_of_evict {turn : Turn} {ticks : Nat} (is : turn.command ticks = .evict) :
    ∃ l rq target, turn = .item l (.request rq) ∧ rq.body = .evict target := by
  rcases turn with ⟨l, rq | _ | _ | _⟩ | _
  case item.request =>
    cases body : rq.body <;> rw [Turn.command, body] at is <;> cases is
    exact ⟨l, rq, _, rfl, body⟩
  all_goals cases is

theorem turn_of_hubReset {turn : Turn} {ticks : Nat} (is : turn.command ticks = .hubReset) :
    ∃ l rq, turn = .item l (.request rq) ∧ rq.body = .hubReset := by
  rcases turn with ⟨l, rq | _ | _ | _⟩ | _
  case item.request =>
    cases body : rq.body <;> rw [Turn.command, body] at is <;> cases is
    exact ⟨l, rq, rfl, body⟩
  all_goals cases is

theorem turn_of_purge {turn : Turn} {ticks : Nat} (is : turn.command ticks = .purge) : ∃ l, turn = .item l .purge := by
  rcases turn with ⟨l, rq | _ | _ | _⟩ | _
  case item.purge => exact ⟨l, rfl⟩
  case item.request => cases body : rq.body <;> rw [Turn.command, body] at is <;> cases is
  all_goals cases is

/-- Every item keeps the receivers, beside the tick events within it. -/
theorem turn_keepsReceivers (turn : Turn) (ticks : Nat) (h : Hub) :
    ∃ n, (n = 0 ∨ n = (turn.command ticks).ticks) ∧ (h.tickEvents n).KeepsReceivers (turn.perform ticks h) := by
  have taken (l : Link) : h.KeepsReceivers (h.takeFrom l) := Outputs.keepsReceivers (outputs_of_lines rfl)
  by_cases evict : turn.command ticks = .evict
  · obtain ⟨l, rq, target, rfl, body⟩ := turn_of_evict evict
    rw [Turn.perform, body]
    exact ⟨0, Or.inl rfl, (taken l).trans (evict_keepsReceivers _ l rq target)⟩
  · by_cases reset : turn.command ticks = .hubReset
    · obtain ⟨l, rq, rfl, body⟩ := turn_of_hubReset reset
      rw [Turn.perform, body]
      exact ⟨0, Or.inl rfl, (taken l).trans (hubReset_keepsReceivers _ l rq)⟩
    · by_cases purge : turn.command ticks = .purge
      · obtain ⟨l, rfl⟩ := turn_of_purge purge
        exact ⟨0, Or.inl rfl, (taken l).trans (purge_keepsReceivers _ l)⟩
      · obtain ⟨n, is, outputs⟩ := turn_within h evict reset purge
        exact ⟨n, is, outputs.keepsReceivers⟩

end Hub

/-- Settles O51: an item's output, the end of an evicted session, the purge completion and the reset, each at one link. -/
theorem engineCommandsLeaveTheLines : Obligations.EngineCommandsLeaveTheLines := by
  intro s t h
  have item {c : Instr} (takes : c.takesItem = true) (run : exec c s = .next t) :
      t.toHub = h ∨ ∃ ticks turn, h.turn = some turn ∧ turn.command ticks = c ∧ t.toHub = turn.perform ticks h := by
    rcases exec_item s takes with idle | ⟨ticks, turn, given, rfl⟩
    · cases run.symm.trans idle; exact Or.inl rfl
    · cases run.symm.trans (exec_turn ticks given); exact Or.inr ⟨ticks, turn, given, rfl, rfl⟩
  have purges {l : Link} (given : h.turn = some (.item l .purge)) :
      exec .purge s = .next (s.withHub ((h.takeFrom l).purge l)) := exec_purge given
  clear_value h
  refine ⟨fun c takes run => ?_, fun c takes noEvict noReset noPurge run => ?_, fun run m => ?_, fun run l given => ?_,
    fun run m idle => ?_⟩
  · rcases item takes run with same | ⟨ticks, turn, -, rfl, eq⟩
    · rw [same]
      exact ⟨0, Or.inl rfl, rfl, rfl, rfl, fun _ => ⟨rfl, rfl, rfl, rfl⟩⟩
    · obtain ⟨n, is, clock, receivers⟩ := Hub.turn_keepsReceivers turn ticks h
      simp only [Hub.clock, LinkState.receiver, Prod.mk.injEq, ← eq] at clock receivers
      obtain ⟨tick, ready, speed⟩ := clock
      exact ⟨n, is, tick, ready, speed, receivers⟩
  · rcases item takes run with same | ⟨ticks, turn, -, rfl, eq⟩
    · rw [same]
      exact ⟨0, Or.inl rfl, fun _ => rfl⟩
    · obtain ⟨n, is, outputs⟩ := Hub.turn_within h noEvict noReset noPurge
      rw [← eq] at outputs
      exact ⟨n, is, outputs.answered⟩
  · rcases item rfl run with same | ⟨ticks, turn, -, is, eq⟩
    · rw [same]; exact ⟨fun _ => rfl, rfl⟩
    · obtain ⟨l, rq, target, rfl, body⟩ := Hub.turn_of_evict is
      rw [Turn.perform, body] at eq
      obtain ⟨k, before, answered⟩ := (h.takeFrom l).link_evict l rq target m
      rw [ObjReq.perform] at eq
      rw [← eq] at answered
      refine ⟨fun inactive => ?_, ?_⟩
      · have same : k = h.link m := before.elim id fun ended => ended.trans (if_neg inactive)
        exact same ▸ answered
      · rcases before with rfl | rfl
        · rw [answered]; rfl
        · rw [answered, LinkState.ended_eq]; rfl
  · cases run.symm.trans (purges given)
    exact ⟨(h.takeFrom l).link_purge_self l |>.trans (Hub.link_purgeCompletion_congr rfl rfl),
      fun m ne => (h.takeFrom l).link_purge_other ne⟩
  · rcases item rfl run with same | ⟨ticks, turn, given, is, eq⟩
    · rw [same]; exact ⟨rfl, fun _ => rfl⟩
    · obtain ⟨l, rq, rfl, body⟩ := Hub.turn_of_hubReset is
      rw [Turn.perform, body, ObjReq.perform] at eq
      rw [eq]
      obtain ⟨window, whole⟩ := Hub.link_hubReset_idle (h := h.takeFrom l) idle l rq
      exact ⟨window, fun allowed => whole fun is => allowed rq (is ▸ given) body⟩

end Sys2Proof.Machine
end

section
/-! What a command of one link's line can change: that link and its intake (R106, R125, R139). Each such command is made of changes of the
link's record and of its intake. -/

namespace Sys2Proof.Machine
namespace Hub

/-- From `h` to `h'` nothing changes but one link and its intake. -/
structure OnlyAt (l : Link) (h h' : Hub) : Prop where
  lines : h.OnlyLines h'
  links : ∀ m, m ≠ l → h'.link m = h.link m
  intakes : ∀ m, m ≠ l → h'.intake m = h.intake m

section
variable {l : Link}

theorem OnlyAt.refl (h : Hub) : OnlyAt l h h := ⟨rfl, fun _ _ => rfl, fun _ _ => rfl⟩

theorem OnlyAt.trans {h h' h'' : Hub} (first : OnlyAt l h h') (second : OnlyAt l h' h'') : OnlyAt l h h'' where
  lines := first.lines.trans second.lines
  links := fun m ne => (second.links m ne).trans (first.links m ne)
  intakes := fun m ne => (second.intakes m ne).trans (first.intakes m ne)

theorem setLink_onlyAt (h : Hub) (k : LinkState) : OnlyAt l h (h.setLink l k) :=
  ⟨rfl, fun _ ne => h.link_setLink_other k ne, fun _ _ => rfl⟩

theorem modLink_onlyAt (h : Hub) (f : LinkState → LinkState) : OnlyAt l h (h.modLink l f) := h.setLink_onlyAt _

theorem setIntake_onlyAt (h : Hub) (items : List Item) : OnlyAt l h (h.setIntake l items) :=
  ⟨rfl, fun _ _ => rfl, fun _ ne => h.intake_setIntake_other items ne⟩

/-! ### Frames that a delimiter closes (R130, R141) -/

theorem linkAnswer_onlyAt (h : Hub) (slot : Fin 4) (kind tag : Byte) (code : ResultCode) (body : List Byte) :
    OnlyAt l h (h.linkAnswer l slot kind tag code body) := h.modLink_onlyAt _

theorem answerHello_onlyAt (h : Hub) (slot : Fin 4) (he : Hello) : OnlyAt l h (h.answerHello l slot he) := by
  unfold answerHello
  split
  · exact OnlyAt.trans (h.modLink_onlyAt _) (linkAnswer_onlyAt _ _ _ _ _ _)
  · exact h.linkAnswer_onlyAt _ _ _ _ _

theorem serveHello_onlyAt (h : Hub) (slot : Fin 4) (f : RxFrame) (he : Hello) : OnlyAt l h (h.serveHello l slot f he) := by
  unfold serveHello
  split
  · split
    · exact h.modLink_onlyAt _
    · exact h.linkAnswer_onlyAt _ _ _ _ _
  · exact h.answerHello_onlyAt slot he

theorem serveLinkStatus_onlyAt (h : Hub) (slot : Fin 4) (f : RxFrame) (target : Nat) :
    OnlyAt l h (h.serveLinkStatus l slot f target) := by
  unfold serveLinkStatus
  repeat' split
  all_goals exact h.linkAnswer_onlyAt _ _ _ _ _

theorem serve_onlyAt (h : Hub) (slot : Fin 4) (f : RxFrame) : OnlyAt l h (h.serve l slot f) := by
  unfold serve
  split
  · exact h.linkAnswer_onlyAt _ _ _ _ _
  · exact h.linkAnswer_onlyAt _ _ _ _ _
  · exact h.serveHello_onlyAt slot f _
  · unfold serveBye
    split
    · exact h.modLink_onlyAt _
    · exact h.linkAnswer_onlyAt _ _ _ _ _
  · unfold servePing
    split <;> exact h.linkAnswer_onlyAt _ _ _ _ _
  · exact h.serveLinkStatus_onlyAt slot f _
  · unfold serveRequest
    split
    · exact h.setIntake_onlyAt _
    · exact h.linkAnswer_onlyAt _ _ _ _ _

theorem goodFrameEnding_onlyAt (h : Hub) (f : RxFrame) : OnlyAt l h (h.goodFrameEnding l f) := by
  unfold goodFrameEnding
  split
  · exact h.modLink_onlyAt _
  all_goals exact .refl h

theorem goodFrame_onlyAt (h : Hub) (f : RxFrame) : OnlyAt l h (h.goodFrame l f) := by
  have restarted : OnlyAt l h (h.modLink l LinkState.restartKeepalive) := h.modLink_onlyAt _
  unfold goodFrame
  split
  · exact h.goodFrameEnding_onlyAt f
  · dsimp only
    split
    · exact restarted.trans (modLink_onlyAt _ _)
    · exact (restarted.trans (modLink_onlyAt _ _)).trans (serve_onlyAt _ _ f)

theorem closeFrame_onlyAt (h : Hub) : OnlyAt l h (h.closeFrame l) := by
  unfold closeFrame
  split
  · exact h.modLink_onlyAt _
  · exact (h.modLink_onlyAt fun k => { k with buffer := [] }).trans (goodFrame_onlyAt _ _)

theorem closeGood_onlyAt (h : Hub) (sort : Option ReqKind → Bool) : OnlyAt l h (h.closeGood l sort) := by
  unfold closeGood
  split
  · exact h.closeFrame_onlyAt
  · exact .refl h

theorem goodCharacter_onlyAt (h : Hub) (v : Byte) : OnlyAt l h (h.goodCharacter l v) := by
  unfold goodCharacter
  split
  · exact h.closeFrame_onlyAt
  · exact h.modLink_onlyAt _

/-! ### The other events at a link -/

theorem lineBreak_onlyAt (h : Hub) : OnlyAt l h (h.lineBreak l) := by
  have settles : OnlyAt l h (h.modLink l fun k => { k with asm := .settling, buffer := [] }) := h.modLink_onlyAt _
  unfold lineBreak
  split
  · exact .refl h
  · dsimp only
    split
    · exact settles
    · exact settles.trans (modLink_onlyAt _ _)
    · exact settles.trans (modLink_onlyAt _ _)

theorem tearDown_onlyAt (h : Hub) (t : Teardown) : OnlyAt l h (h.tearDown l t) :=
  (h.setLink_onlyAt _).trans (setIntake_onlyAt _ _)

theorem frameCompletes_onlyAt (h : Hub) : OnlyAt l h (h.frameCompletes l) := by
  unfold frameCompletes
  dsimp only
  split
  · split
    · exact .refl h
    · exact (h.setLink_onlyAt _).trans (setIntake_onlyAt _ _)
  · exact .refl h

end
end Hub

theorem State.onHub_onlyAt {s t : State} {l : Link} {f : Hub → Hub} (only : ∀ h : Hub, Hub.OnlyAt l h (f h))
    (run : s.onHub f = .next t) : Hub.OnlyAt l s.toHub.catchUp t.toHub := by
  cases run
  exact only _

/-- Settles O50: each command of a line is made of changes at its link. -/
theorem lineCommandsLeaveTheRest : Obligations.LineCommandsLeaveTheRest := by
  intro s t l v cause c mem run h
  have only : Hub.OnlyAt l h t.toHub := by
    have closes (sort : Option ReqKind → Bool) (run : s.onHub (fun h => h.closeGood l sort) = .next t) :
        Hub.OnlyAt l h t.toHub := State.onHub_onlyAt (fun h => h.closeGood_onlyAt sort) run
    simp only [List.mem_cons, List.not_mem_nil, or_false] at mem
    rcases mem with rfl | rfl | rfl | rfl | rfl | rfl | rfl | rfl | rfl | rfl | rfl | rfl | rfl
    · exact State.onHub_onlyAt (fun h => h.lineBreak_onlyAt) run
    · exact State.onHub_onlyAt (fun h => h.modLink_onlyAt _) run
    · dsimp only [exec, execReceiveError] at run
      refine State.onHub_onlyAt (fun h => ?_) run
      split
      · exact h.modLink_onlyAt _
      · exact .refl h
    · dsimp only [exec, execAbortMark] at run
      refine State.onHub_onlyAt (fun h => ?_) run
      split
      · exact h.modLink_onlyAt _
      · exact .refl h
    · exact closes _ run
    · exact closes _ run
    · exact closes _ run
    · exact closes _ run
    · exact closes _ run
    · exact closes _ run
    · dsimp only [exec, execSessionEndTeardown] at run
      refine State.onHub_onlyAt (fun h => ?_) run
      split
      · exact h.tearDown_onlyAt _
      · exact .refl h
    · exact State.onHub_onlyAt (fun h => h.frameCompletes_onlyAt) run
    · exact State.onHub_onlyAt (fun h => h.goodCharacter_onlyAt v) run
  exact ⟨only.lines, fun m ne => ⟨only.links m ne, only.intakes m ne⟩⟩

end Sys2Proof.Machine
end

section
/-! The commands as events (R108, R111), the arbiter's order, and EVICT (R114). -/

namespace Sys2Proof.Machine

/-- Settles O3: a command is an event on the hub, the two halves of a tick event included. -/
theorem everyCommandAnswersANextState : Obligations.EveryCommandAnswersANextState := by
  intro c s
  rcases catches : c.catchesUp
  · cases c
    case deadlineDue => exact ⟨_, exec_deadlineDue s, rfl⟩
    case keepaliveLapse l => exact ⟨_, exec_keepaliveLapse l s, rfl⟩
    all_goals cases catches
  · obtain ⟨f, event⟩ := exec_onHub c catches
    exact ⟨_, (event s).trans (s.onHub_next f), rfl⟩

/-! ### The arbiter (R108) -/

/-- The sources in the order in which the arbiter's turn goes round. -/
def Source.order : List Source := [.link .a, .link .b, .link .c, .link .d, .timebase]

theorem Source.mem_cycle (remembered x : Source) : x ∈ remembered.cycle := by
  rcases remembered with (_ | _ | _ | _) | _ <;> rcases x with (_ | _ | _ | _) | _ <;> decide

/-- The source `j` places behind the one after the remembered one. -/
theorem Source.cycle_get (n : Fin 5) {remembered : Source} (is : order[n]? = some remembered) (j : Fin 5) :
    remembered.cycle[j]? = order[(n.val + 1 + j.val) % 5]? := by
  have round : ∀ n j : Fin 5, order[n]?.map (fun r => r.cycle[j]?) = some (order[(n.val + 1 + j.val) % 5]?) := by decide
  have here := round n j
  rw [is] at here
  exact Option.some.inj here

/-- The first element of a list that a search answers for. -/
theorem findSome_of_first {α β : Type} {f : α → Option β} {x : α} : ∀ {xs : List α} {m : Nat}, xs[m]? = some x →
    (∀ j < m, ∀ y, xs[j]? = some y → f y = none) → f x ≠ none → xs.findSome? f = f x
  | [], _, there, _, _ => nomatch there
  | y :: ys, 0, there, _, answers => by
    cases there
    obtain ⟨b, eq⟩ := Option.ne_none_iff_exists'.1 answers
    rw [List.findSome?_cons, eq]
  | y :: ys, m + 1, there, before, answers => by
    rw [List.findSome?_cons, before 0 (Nat.succ_pos m) y rfl]
    exact findSome_of_first there (fun j lt z at_j => before (j + 1) (Nat.succ_lt_succ lt) z at_j) answers

namespace Hub

/-- No item waits at a source. -/
def EmptyAt (h : Hub) : Source → Prop
  | .link l => h.intake l = []
  | .timebase => h.expiryIntake = []

theorem headOf_eq_none (h : Hub) (x : Source) : h.headOf x = none ↔ h.EmptyAt x := by
  cases x <;> simp [headOf, EmptyAt]

theorem turn_eq_none (h : Hub) : h.turn = none ↔ ∀ x, h.EmptyAt x := by
  rw [turn, List.findSome?_eq_none_iff]
  exact ⟨fun none x => (h.headOf_eq_none x).1 (none x (h.remembered.mem_cycle x)),
    fun empty x _ => (h.headOf_eq_none x).2 (empty x)⟩

/-- The turn goes to the first source behind the remembered one that holds an item. -/
theorem turn_eq_headOf {h : Hub} {n m : Fin 5} (is : Source.order[n]? = some h.remembered)
    (before : ∀ j < m.val, ∀ x, Source.order[(n.val + 1 + j) % 5]? = some x → h.EmptyAt x) {x : Source}
    (there : Source.order[(n.val + 1 + m.val) % 5]? = some x) (holds : ¬ h.EmptyAt x) : h.turn = h.headOf x := by
  refine findSome_of_first (m := m) ((Source.cycle_get n is m).trans there) (fun j lt y at_j => ?_)
    (mt (h.headOf_eq_none x).1 holds)
  have place := Source.cycle_get n is ⟨j, lt.trans m.isLt⟩
  exact (h.headOf_eq_none y).2 (before j lt y (place.symm.trans at_j))

end Hub

/-- Settles O27: the search along the cycle, and an engine command whose item is not the next one. -/
theorem arbiterGoesRound : Obligations.ArbiterGoesRound := by
  intro h order empty item
  have sameEmpty : empty = h.EmptyAt := by funext x; cases x <;> rfl
  have sameItem : item = h.headOf := by funext x; cases x <;> rfl
  rw [sameEmpty, sameItem]
  refine ⟨h.turn_eq_none, fun n m is before x there holds => Hub.turn_eq_headOf is before there holds, fun _ => rfl, rfl,
    fun s c caught takes other => ?_⟩
  subst caught
  rcases exec_item s takes with idle | ⟨ticks, turn, given, rfl⟩
  · exact idle
  · exact absurd (by rw [given]; rfl) (other ticks)

/-- Settles O44: an EVICT that no check refuses names another link, whose session it ends before the response. -/
theorem evictEndsTheTargetsSession : Obligations.EvictEndsTheTargetsSession := by
  intro s l t rq h takes body passes
  have run : exec .evict s = .next (s.withHub ((h.takeFrom l).evict l rq (linkNumber t))) := exec_request_of 0 takes body
  clear_value h
  obtain ⟨t', names, other, eq⟩ := ((h.takeFrom l).evict_spec l rq (linkNumber t) body).2 passes
  cases (linkOf_linkNumber t).symm.trans names
  exact ⟨other, by rw [run, eq, Hub.endSession_eq]; rfl⟩

end Sys2Proof.Machine
end

section
/-! The layouts of the request bodies (R176, R179) and the request that a frame of an engine-bound kind becomes (R150). -/

namespace Sys2Proof.Machine

/-! ### A body that begins with a name behind its length byte -/

/-- A body whose first field is a name behind its length byte, and what stands behind the name. -/
def namedBody (name rest : List Byte) : List Byte := byteOf name.length :: name ++ rest

theorem toNat_byteOf {n : Nat} (short : n ≤ 8) : (byteOf n).toNat = n := by
  rw [byteOf, BitVec.toNat_ofNat]
  omega

section
variable (name rest : List Byte)

theorem field_zero_namedBody (short : name.length ≤ 8) : field (namedBody name rest) 0 = name.length := toNat_byteOf short

theorem fieldBytes_namedBody : fieldBytes (namedBody name rest) 1 name.length = name := by
  simp [fieldBytes, namedBody]

variable {k : Nat} (behind : 0 < k)
include behind

/-- Behind the name the fields follow in their order. -/
theorem getD_namedBody : (namedBody name rest).getD (k + name.length) 0 = rest.getD (k - 1) 0 := by
  have shift : k + name.length = (byteOf name.length :: name).length + (k - 1) := by rw [List.length_cons]; omega
  rw [shift, namedBody, List.getD_append_right _ _ _ _ (Nat.le_add_right _ _), Nat.add_sub_cancel_left]

theorem field_namedBody : field (namedBody name rest) (k + name.length) = field rest (k - 1) := by
  rw [field, getD_namedBody name rest behind, field]

theorem field_succ_namedBody : field (namedBody name rest) (k + name.length + 1) = field rest (k - 1 + 1) := by
  have next : k + name.length + 1 = k + 1 + name.length := by omega
  rw [next, field_namedBody name rest k.succ_pos, Nat.succ_sub_one, Nat.sub_add_cancel behind]

theorem field16_namedBody : field16 (namedBody name rest) (k + name.length) = field16 rest (k - 1) := by
  rw [field16, field_namedBody name rest behind, field_succ_namedBody name rest behind, field16]

theorem fieldHandle_namedBody : fieldHandle (namedBody name rest) (k + name.length) = fieldHandle rest (k - 1) := by
  rw [fieldHandle, field_namedBody name rest behind, field_succ_namedBody name rest behind, fieldHandle]

end

/-- The common fields of a CREATE body (R11). -/
theorem createFields_namedBody {name : List Byte} (rest : List Byte) (short : name.length ≤ 8) :
    createFields (namedBody name rest) = { name := name, access := rest.getD 0 0, discipline := field rest 1 } := by
  simp (disch := decide) only [createFields, field_zero_namedBody name rest short, fieldBytes_namedBody, getD_namedBody,
    field_namedBody, Nat.reduceSub]

section
variable {name rest : List Byte} (tag : Byte) (short : name.length ≤ 8)
include short

theorem requestOf_lookup : requestOf .lookup tag (namedBody name rest) = .object (.lookup name) := by
  simp only [requestOf, field_zero_namedBody name rest short, fieldBytes_namedBody]

theorem requestOf_createResource : requestOf .createResource tag (namedBody name rest) = .object
    (.createResource { name := name, access := rest.getD 0 0, discipline := field rest 1 } (field rest 2) (field rest 3)) := by
  simp (disch := decide) only [requestOf, createFields_namedBody rest short, field_zero_namedBody name rest short,
    field_namedBody, Nat.reduceSub]

theorem requestOf_createSignal : requestOf .createSignal tag (namedBody name rest) = .object
    (.createSignal { name := name, access := rest.getD 0 0, discipline := field rest 1 } (field rest 2) (field rest 3)) := by
  simp (disch := decide) only [requestOf, createFields_namedBody rest short, field_zero_namedBody name rest short,
    field_namedBody, Nat.reduceSub]

theorem requestOf_createQueue : requestOf .createQueue tag (namedBody name rest) = .object
    (.createQueue { name := name, access := rest.getD 0 0, discipline := field rest 1 } (field rest 2) (field rest 3)
      (field rest 4) (field16 rest 5) (field rest 7) (field rest 8) (fieldHandle rest 9)) := by
  simp (disch := decide) only [requestOf, createFields_namedBody rest short, field_zero_namedBody name rest short,
    field_namedBody, field16_namedBody, fieldHandle_namedBody, Nat.reduceSub]

/-- The label of a HELLO stands behind its length byte, the fourth of the body (R142). -/
theorem requestOf_hello (version i1 i0 : Byte) :
    requestOf .hello tag (version :: i1 :: i0 :: byteOf name.length :: name) =
      .hello { tag := tag, version := version.toNat, interval := 256 * i1.toNat + i0.toNat, label := name } := by
  have length : field (version :: i1 :: i0 :: byteOf name.length :: name) 3 = name.length := toNat_byteOf short
  have label : fieldBytes (version :: i1 :: i0 :: byteOf name.length :: name) 4 name.length = name := List.take_length
  rw [requestOf, length, label]
  rfl

end

/-! ### The frame of an engine-bound kind (R150) -/

theorem Hub.serve_object {h : Hub} {l : Link} {i : Fin 4} {f : RxFrame} {body : ObjReq}
    (verdict : f.verdict = .wellFormed (.object body)) (active : (h.link l).session = .active) :
    h.serve l i f =
      h.appendIntake l [.request { tag := f.tag, session := (h.link l).sessionNo, slot := i, body := body }] := by
  simp only [serve, verdict, serveRequest, if_pos active]

theorem RxFrame.command_of_engineBound {f : RxFrame} {r : ReqKind} (kind : ReqKind.ofCode f.kind = some r)
    (bound : r.engineBound = true) (l : Link) : f.command l = .objectRequest l := by
  rw [command, kind]
  cases r
  case hello | bye | ping | linkStatus => cases bound
  all_goals rfl

/-- Settles O22: the layouts without a name read off at fixed offsets, those with a name behind it, and the appending. -/
theorem objectRequestIsAppended : Obligations.ObjectRequestIsAppended := by
  refine ⟨fun tag gen slot x y t1 t0 => ?_, fun tag name access discipline x y short => ?_, ?_⟩
  · exact ⟨rfl, rfl, rfl, rfl, rfl, rfl, rfl, rfl, rfl, rfl, rfl, rfl, rfl, rfl, rfl, rfl, fun _ => rfl⟩
  · intro n common
    have lookup : requestOf .lookup tag (namedBody name []) = .object (.lookup name) := requestOf_lookup tag short
    rw [namedBody, List.append_nil] at lookup
    exact ⟨lookup, requestOf_createResource tag short, requestOf_createSignal tag short,
      fun _ _ _ _ _ _ _ _ _ => requestOf_createQueue tag short, requestOf_hello tag short⟩
  · intro s l f i r body h k closes active lowest kind bound status flags ok spells
    have verdict : f.verdict = .wellFormed (.object body) := by
      rw [RxFrame.verdict_of_wellFormed kind status flags ok, spells]
    have run : exec (f.command l) s = .next (s.withHub ((h.setLink l (k.accepted i)).serve l i f)) :=
      exec_served closes (by rw [active]; decide) lowest
    clear_value h
    have active' : ((h.setLink l (k.accepted i)).link l).session = .active := by simpa using active
    rw [← RxFrame.command_of_engineBound kind bound l, run, Hub.serve_object verdict active', Hub.link_setLink_self]
    rfl

end Sys2Proof.Machine
end

section
/-! The teardown of a session (R154): what becomes of the frame in transmission (R136), then steps 2 to 7 in their order. -/

namespace Sys2Proof.Machine

/-! ### The frame in transmission (R136) -/

namespace LinkState

theorem stopFrame_of_none {k : LinkState} (silent : k.tx = none) : k.stopFrame = (k, none) := by
  simp only [stopFrame, silent]

/-- A frame whose closing delimiter is in progress completes. -/
theorem stopFrame_completes {k : LinkState} {loss : Bool} {c : Byte} {item : TxItem} {items : List TxItem}
    (tx : k.tx = some ⟨loss, [c]⟩) (list : k.txList = item :: items) :
    k.stopFrame = ({ k with tx := none, txList := items, wire := k.wire ++ [c] }, some item) := by
  simp only [stopFrame, tx, list]

/-- Any other frame is cut behind the character in progress. -/
theorem stopFrame_cuts {k : LinkState} {loss : Bool} {c d : Byte} {more : List Byte} {item : TxItem} {items : List TxItem}
    (tx : k.tx = some ⟨loss, c :: d :: more⟩) (list : k.txList = item :: items) :
    k.stopFrame =
      ({ k with tx := none, txList := items, loss := k.loss || loss, wire := k.wire ++ c :: abortAfter c }, none) := by
  simp only [stopFrame, tx, list]

/-- The abort mark behind a character, of which an escape is the first half (R122, R136). -/
theorem cons_abortAfter (c : Byte) :
    c :: abortAfter c = if c = escapeByte then [escapeByte, delimiter] else [c, escapeByte, delimiter] := by
  unfold abortAfter
  split
  · rw [‹c = escapeByte›]
  · rfl

theorem takeDown_done (k : LinkState) (t : Teardown) : (k.takeDown t).2 = k.stopFrame.2 := by
  unfold takeDown
  dsimp only
  split <;> rfl

end LinkState

/-! ### Steps 2 to 7 (R154) -/

/-- The reports of the frame that completed at step 2, if one did, are placed before the withdrawal and the purge item. -/
theorem Hub.tearDown_eq (h : Hub) (l : Link) (t : Teardown) :
    h.tearDown l t = (h.setLink l ((h.link l).takeDown t).1).setIntake l
      ((h.intake l ++ ((h.link l).stopFrame.2.map TxItem.reports).getD []).filter (Item.stays (h.link l).sessionNo) ++
        [.purge]) := by
  simp only [tearDown, LinkState.takeDown_done]

theorem exec_sessionEndTeardown_none {s : State} {l : Link} (none : (s.toHub.catchUp.link l).teardown = .none) :
    exec (.sessionEndTeardown l) s = .next (s.withHub s.toHub.catchUp) := by
  simp only [exec, execSessionEndTeardown, State.onHub_next, none]

theorem exec_sessionEndTeardown_some {s : State} {l : Link} {t : Teardown}
    (outstanding : (s.toHub.catchUp.link l).teardown = some t) :
    exec (.sessionEndTeardown l) s = .next (s.withHub (s.toHub.catchUp.tearDown l t)) := by
  simp only [exec, execSessionEndTeardown, State.onHub_next, outstanding]

/-- Settles O23: the record by the stopped frame, the intake by the reports and the withdrawal. -/
theorem sessionEndTeardownInOrder : Obligations.SessionEndTeardownInOrder := by
  refine ⟨?_, fun k => LinkState.stopFrame_of_none, fun k loss c more item items tx list => ⟨fun last => ?_, fun cut => ?_⟩⟩
  · intro s l h k
    refine ⟨exec_sessionEndTeardown_none, ?_⟩
    intro e outstanding stopped cleared ended reports
    have run : exec (.sessionEndTeardown l) s = .next (s.withHub (h.tearDown l e)) := exec_sessionEndTeardown_some outstanding
    have placed : reports = (stopped.2.map TxItem.reports).getD [] := by
      unfold reports
      rcases stopped.2 with _ | item <;> rfl
    clear_value h
    rw [run, Hub.tearDown_eq, LinkState.takeDown_eq, placed]
    rfl
  · subst last
    exact LinkState.stopFrame_completes tx list
  · obtain ⟨d, rest, rfl⟩ := List.exists_cons_of_ne_nil cut
    rw [LinkState.stopFrame_cuts tx list, LinkState.cons_abortAfter]
    rfl

end Sys2Proof.Machine
end

section
/-! The CRC (R124) and the closing checks (R128). -/

namespace Sys2Proof.Machine

/-! ### Two bytes as one half -/

/-- Two bytes side by side, the first on the left. -/
def halfOf (hi lo : Byte) : Half := hi.zeroExtend 16 <<< 8 ||| lo.zeroExtend 16

theorem toNat_halfOf (hi lo : Byte) : (halfOf hi lo).toNat = 256 * hi.toNat + lo.toNat := by
  have left := hi.isLt
  have right := lo.isLt
  have shifted : (hi.zeroExtend 16 <<< 8).toNat = 2 ^ 8 * hi.toNat := by
    simp only [BitVec.toNat_shiftLeft, BitVec.toNat_setWidth, Nat.shiftLeft_eq]
    omega
  rw [halfOf, BitVec.toNat_or, shifted, BitVec.toNat_setWidth_of_le (by decide),
    ← Nat.two_pow_add_eq_or_of_lt right]

/-- A two-byte field, most significant byte first, as one half. -/
theorem ofNat_field16 (buf : List Byte) (off : Nat) :
    BitVec.ofNat 16 (field16 buf off) = halfOf (buf.getD off 0) (buf.getD (off + 1) 0) := by
  apply BitVec.eq_of_toNat_eq
  have left := (buf.getD off 0).isLt
  have right := (buf.getD (off + 1) 0).isLt
  rw [toNat_halfOf, BitVec.toNat_ofNat, field16, field, field]
  omega

/-- The bytes of a half, most significant first. -/
theorem bytes16_toNat (c : Half) : bytes16 c.toNat = [(c >>> 8).truncate 8, c.truncate 8] := by
  have bound := c.isLt
  simp only [bytes16, byteOf, List.cons.injEq, and_true]
  refine ⟨BitVec.eq_of_toNat_eq ?_, BitVec.eq_of_toNat_eq ?_⟩
  · simp [BitVec.toNat_ushiftRight, Nat.shiftRight_eq_div_pow]
  · simp

/-- The two bytes of a half give it back. -/
theorem halfOf_bytes (c : Half) : halfOf ((c >>> 8).truncate 8) (c.truncate 8) = c := by
  have bound := c.isLt
  apply BitVec.eq_of_toNat_eq
  simp only [toNat_halfOf, BitVec.truncate_eq_setWidth, BitVec.toNat_setWidth, BitVec.toNat_ushiftRight,
    Nat.shiftRight_eq_div_pow]
  omega

/-! ### The CRC as a shift register (R124) -/

theorem crcBit_zero : crcBit 0 = 0 := by decide

/-- One bit of the division loses nothing: the bit shifted out is told by the lowest bit of the outcome. -/
theorem crcBit_injective : Function.Injective crcBit := by
  intro a b same
  have lowest (c : Half) : (crcBit c).getLsbD 0 = c.msb := by
    unfold crcBit
    cases c.msb <;> simp
  have top : a.msb = b.msb := by rw [← lowest a, ← lowest b, same]
  have shifted : a <<< 1 = b <<< 1 := by
    unfold crcBit at same
    rw [top] at same
    cases e : b.msb
    · simpa only [e, Bool.false_eq_true, if_false] using same
    · simpa only [e, if_true, BitVec.xor_left_inj] using same
  have doubled := congrArg BitVec.toNat shifted
  rw [BitVec.msb_eq_decide, BitVec.msb_eq_decide, decide_eq_decide] at top
  simp only [BitVec.toNat_shiftLeft, Nat.shiftLeft_eq] at doubled
  exact BitVec.eq_of_toNat_eq (by omega)

/-- So does a number of them. -/
theorem repeat_crcBit_injective (n : Nat) : Function.Injective (Nat.repeat crcBit n) := by
  induction n with
  | zero => exact fun _ _ same => same
  | succ n ih => exact fun _ _ same => ih (crcBit_injective same)

/-- As long as no set bit is shifted out, the register is only shifted. -/
theorem toNat_repeat_crcBit (c : Half) (n : Nat) (fits : 2 ^ n * c.toNat < 65536) :
    (Nat.repeat crcBit n c).toNat = 2 ^ n * c.toNat := by
  induction n with
  | zero => exact (Nat.one_mul _).symm
  | succ n ih =>
    rw [Nat.pow_succ, Nat.mul_right_comm] at fits ⊢
    have before := ih (by omega)
    have clear : (Nat.repeat crcBit n c).msb = false := by
      rw [BitVec.msb_eq_decide, before]
      exact decide_eq_false (by omega)
    have shift : Nat.repeat crcBit (n + 1) c = Nat.repeat crcBit n c <<< 1 := by
      rw [Nat.repeat, crcBit, clear]
      rfl
    rw [shift, BitVec.toNat_shiftLeft, before, Nat.shiftLeft_eq]
    omega

/-- Eight bits on, the lower byte of the register stands in the upper. -/
theorem repeat_crcBit_lower (lo : Byte) : Nat.repeat crcBit 8 (lo.zeroExtend 16) = lo.zeroExtend 16 <<< 8 := by
  have bound := lo.isLt
  have plain : (lo.zeroExtend 16).toNat = lo.toNat := BitVec.toNat_setWidth_of_le (by decide)
  apply BitVec.eq_of_toNat_eq
  rw [toNat_repeat_crcBit _ 8 (by omega), BitVec.toNat_shiftLeft, Nat.shiftLeft_eq, plain]
  omega

theorem halfOf_eq_xor (hi lo : Byte) : halfOf hi lo = hi.zeroExtend 16 <<< 8 ^^^ lo.zeroExtend 16 := by
  ext i bound
  by_cases low : i < 8
  · simp [halfOf, low]
  · simp [halfOf, low, BitVec.getLsbD_of_ge lo i (by omega)]

theorem xor_eq_iff (a b c : Half) : a ^^^ b = c ↔ a = b ^^^ c := by
  constructor <;> rintro rfl
  · rw [BitVec.xor_comm a b, ← BitVec.xor_assoc, BitVec.xor_self, BitVec.zero_xor]
  · rw [BitVec.xor_comm b c, BitVec.xor_assoc, BitVec.xor_self, BitVec.xor_zero]

/-- Feeding the upper byte that the register holds, and then the lower, leaves 0, and no other two bytes do. -/
theorem crcByte_crcByte_eq_zero (c : Half) (hi lo : Byte) : crcByte (crcByte c hi) lo = 0 ↔ c = halfOf hi lo := by
  have zero : (0 : Half) = Nat.repeat crcBit 8 0 := by decide
  have alone (a b : Half) : a ^^^ b = 0 ↔ a = b := (xor_eq_iff a b 0).trans (by rw [show b ^^^ 0 = b from BitVec.xor_zero])
  calc crcByte (crcByte c hi) lo = 0
    _ ↔ crcByte c hi ^^^ lo.zeroExtend 16 <<< 8 = 0 := by
      rw [zero, crcByte, (repeat_crcBit_injective 8).eq_iff, ← zero]
    _ ↔ Nat.repeat crcBit 8 (c ^^^ hi.zeroExtend 16 <<< 8) = Nat.repeat crcBit 8 (lo.zeroExtend 16) := by
      rw [alone, repeat_crcBit_lower, crcByte]
    _ ↔ c = halfOf hi lo := by
      rw [(repeat_crcBit_injective 8).eq_iff, xor_eq_iff, halfOf_eq_xor]

theorem crc_append_byte (bs : List Byte) (b : Byte) : crc (bs ++ [b]) = crcByte (crc bs) b := by
  rw [crc, List.foldl_append]
  rfl

/-- The residue of a frame that ends in two bytes is 0 exactly when these are the CRC of what stands before them. -/
theorem crc_append_eq_zero (bs : List Byte) (hi lo : Byte) : crc (bs ++ [hi, lo]) = 0 ↔ crc bs = halfOf hi lo := by
  rw [List.append_cons, crc_append_byte, crc_append_byte, crcByte_crcByte_eq_zero]

/-- Settles O9: the parameters by the definition, the CRC's place by its two bytes, the residue by the register's shift. -/
theorem crcFollowsItsParameters : Obligations.CrcFollowsItsParameters :=
  ⟨rfl, crc_append_byte, by decide +kernel, fun _ _ _ _ _ => by rw [frameBytes, bytes16_toNat], crc_append_eq_zero⟩

/-! ### The closing checks (R128) -/

section
variable {buf : List Byte}

theorem closingCheck_short (short : buf.length < 8) : closingCheck buf = .error .shortFrame := if_pos short

variable (long : 8 ≤ buf.length)
include long

theorem closingCheck_long : closingCheck buf =
    if crc (buf.take (buf.length - 2)) ≠ halfOf (buf.getD (buf.length - 2) 0) (buf.getD (buf.length - 1) 0) then
      .error .crcMismatch
    else if field16 buf 4 ≠ buf.length - 8 then .error .lengthDisagreement
    else .ok { kind := buf.getD 0 0, tag := buf.getD 1 0, status := buf.getD 2 0, flags := buf.getD 3 0,
               body := fieldBytes buf 6 (buf.length - 8) } := by
  rw [closingCheck, if_neg (Nat.not_lt_of_le long), ofNat_field16, show buf.length - 2 + 1 = buf.length - 1 by omega]

end

/-- The closing checks give no cause but their three. -/
theorem closingCheck_error_mem {buf : List Byte} {e : ReceiveFault} (fails : closingCheck buf = .error e) :
    e ∈ [ReceiveFault.shortFrame, .crcMismatch, .lengthDisagreement] := by
  unfold closingCheck at fails
  split at fails
  · cases fails; decide
  · split at fails
    · cases fails; decide
    · split at fails <;> cases fails
      decide

theorem LinkState.receiveError_eq (k : LinkState) (next : AsmState) :
    k.receiveError next =
      { k with asm := next, buffer := [], frameErrors := min (k.frameErrors + 1) 65535, loss := true } := by
  rw [receiveError, saturate16_eq]

theorem Hub.closeFrame_error {h : Hub} {l : Link} {e : ReceiveFault} (fails : closingCheck (h.link l).buffer = .error e) :
    h.closeFrame l = h.setLink l ((h.link l).receiveError .collecting) := by
  simp only [closeFrame, fails]
  rfl

theorem Hub.closeFrame_ok {h : Hub} {l : Link} {f : RxFrame} (good : closingCheck (h.link l).buffer = .ok f) :
    h.closeFrame l = (h.setLink l { h.link l with buffer := [] }).goodFrame l f := by
  simp only [closeFrame, good]
  rfl

/-- Settles O10: one equation for a buffer of 8 bytes or more, read off check by check; then what each outcome does. -/
theorem closingChecksInOrder : Obligations.ClosingChecksInOrder := by
  refine ⟨fun buf => ?_, fun h l => ⟨fun e fails => ?_, fun f => Hub.closeFrame_ok⟩⟩
  · intro n crcGood lengthGood
    exact ⟨closingCheck_short, fun long bad => (closingCheck_long long).trans (if_pos bad),
      fun long good bad => (closingCheck_long long).trans ((if_neg (not_not_intro good)).trans (if_pos bad)),
      fun long good agrees => (closingCheck_long long).trans ((if_neg (not_not_intro good)).trans
        (if_neg (not_not_intro agrees)))⟩
  · rw [Hub.closeFrame_error fails, LinkState.receiveError_eq]
    exact ⟨_, rfl, rfl, rfl, rfl⟩

/-! ### A frame on the line (R122, R134, R135) -/

theorem length_frameContent (kind tag status flags : Byte) (body : List Byte) :
    (frameContent kind tag status flags body).length = 6 + body.length := by
  simp only [frameContent, bytes16, List.length_append, List.length_cons, List.length_nil]

theorem length_frameBytes (kind tag status flags : Byte) (body : List Byte) :
    (frameBytes kind tag status flags body).length = 8 + body.length := by
  simp only [frameBytes, length_frameContent, bytes16, List.length_append, List.length_cons, List.length_nil]
  omega

/-- Behind the last two bytes of a buffer stands its CRC, if these are the bytes of that CRC. -/
theorem crcGood_append (bs : List Byte) {buf : List Byte} (ends : buf = bs ++ bytes16 (crc bs).toNat) :
    crc (buf.take (buf.length - 2)) = halfOf (buf.getD (buf.length - 2) 0) (buf.getD (buf.length - 1) 0) := by
  rw [bytes16_toNat] at ends
  have length : buf.length = bs.length + 2 := by rw [ends, List.length_append]; rfl
  rw [length, Nat.add_sub_cancel, show bs.length + 2 - 1 = bs.length + 1 from rfl, ends, List.take_left,
    List.getD_append_right _ _ _ _ (Nat.le_refl _), List.getD_append_right _ _ _ _ (Nat.le_add_right _ 1), Nat.sub_self,
    Nat.add_sub_cancel_left]
  exact (halfOf_bytes _).symm

theorem field16_bytes16 {n : Nat} (fits : n < 65536) : 256 * (byteOf (n / 256)).toNat + (byteOf n).toNat = n := by
  rw [byteOf, byteOf, BitVec.toNat_ofNat, BitVec.toNat_ofNat]
  omega

/-- The closing checks accept a frame as it was made (R128, R134). -/
theorem closingCheck_frameBytes (kind tag status flags : Byte) {body : List Byte} (fits : body.length < 65536) :
    closingCheck (frameBytes kind tag status flags body) =
      .ok { kind := kind, tag := tag, status := status, flags := flags, body := body } := by
  have length := length_frameBytes kind tag status flags body
  have long : 8 ≤ (frameBytes kind tag status flags body).length := by omega
  have crcGood := crcGood_append _ (show frameBytes kind tag status flags body = _ from rfl)
  have lengthGood : field16 (frameBytes kind tag status flags body) 4 =
      (frameBytes kind tag status flags body).length - 8 := by
    rw [length, Nat.add_sub_cancel_left]
    exact field16_bytes16 fits
  rw [closingCheck_long long, if_neg (not_not_intro crcGood), if_neg (not_not_intro lengthGood), length]
  simp [frameBytes, frameContent, fieldBytes, bytes16]

/-- The characters of a frame up to its closing delimiter, taken from HUNT on (R126, R135). -/
theorem LinkState.take_lineChars {k : LinkState} {bs : List Byte} (hunt : k.asm = .hunt) (fits : bs.length ≤ 306) :
    ((lineChars false bs).dropLast).foldl takeCharacter k = { k with asm := .collecting, buffer := bs } := by
  have opens : k.takeCharacter delimiter = { k with asm := .collecting, buffer := [] } := by
    simp only [takeCharacter, hunt, if_true]
  have chars : (lineChars false bs).dropLast = delimiter :: stuff bs := by
    rw [lineChars, List.dropLast_concat]
    rfl
  rw [chars, List.foldl_cons, opens, take_stuff bs _ rfl (by simpa using fits), List.nil_append]

/-- Settles O16: the coded bytes come back one by one, and the closing checks accept what the transmitter made. -/
theorem transmittedFrameIsReceivedWhole : Obligations.TransmittedFrameIsReceivedWhole := by
  intro k f loss hunt short k'
  have length : (f.bytes loss).length = 8 + f.body.length := length_frameBytes _ _ _ _ _
  have taken : k' = { k with asm := .collecting, buffer := f.bytes loss } :=
    LinkState.take_lineChars hunt (by omega)
  clear_value k'
  subst taken
  refine ⟨rfl, rfl, ?_, closingCheck_frameBytes _ _ _ _ (by omega), rfl⟩
  rw [LinkState.lineChars, List.getLast?_concat]

end Sys2Proof.Machine
end

section
/-! The assembler's events (R126, R127, R129, R132, R133): each command of a line as one change of its link's record. -/

namespace Sys2Proof.Machine

/-! ### The commands -/

section
variable (s : State) (l : Link)

theorem exec_goodCharacter (v : Byte) :
    exec (.goodCharacter l v) s = .next (s.withHub (s.toHub.catchUp.goodCharacter l v)) := rfl

theorem exec_lineBreak : exec (.lineBreak l) s = .next (s.withHub (s.toHub.catchUp.lineBreak l)) := rfl

variable {s l}

/-- A receive error whose cause can arise counts, and takes the assembler to the state of that cause (R129). -/
theorem exec_receiveError_some {cause : ReceiveFault} {next : AsmState}
    (arises : (s.toHub.catchUp.link l).errorState cause = some next) :
    exec (.receiveError l cause) s =
      .next (s.withHub (s.toHub.catchUp.setLink l ((s.toHub.catchUp.link l).receiveError next))) := by
  simp only [exec, execReceiveError, State.onHub_next, arises]
  rfl

theorem exec_receiveError_none {cause : ReceiveFault} (cannot : (s.toHub.catchUp.link l).errorState cause = none) :
    exec (.receiveError l cause) s = .next (s.withHub s.toHub.catchUp) := by
  simp only [exec, execReceiveError, State.onHub_next, cannot]

theorem exec_abortMark_escaped (escaped : (s.toHub.catchUp.link l).asm = .escaped) :
    exec (.abortMark l) s = .next (s.withHub (s.toHub.catchUp.setLink l (s.toHub.catchUp.link l).abortFrame)) := by
  simp only [exec, execAbortMark, State.onHub_next, escaped, if_true]
  rfl

theorem exec_abortMark_other (other : (s.toHub.catchUp.link l).asm ≠ .escaped) :
    exec (.abortMark l) s = .next (s.withHub s.toHub.catchUp) := by
  simp only [exec, execAbortMark, State.onHub_next, if_neg other]

theorem exec_settlingComplete_settling (settling : (s.toHub.catchUp.link l).asm = .settling) :
    exec (.settlingComplete l) s =
      .next (s.withHub (s.toHub.catchUp.setLink l { s.toHub.catchUp.link l with asm := .hunt })) := by
  simp only [exec, execSettlingComplete, State.onHub_next, Hub.modLink, settling, if_true]

theorem exec_settlingComplete_other (other : (s.toHub.catchUp.link l).asm ≠ .settling) :
    exec (.settlingComplete l) s = .next (s.withHub s.toHub.catchUp) := by
  simp only [exec, execSettlingComplete, State.onHub_next, Hub.modLink, if_neg other, Hub.setLink_link]

end

/-! ### When a receive error's cause can arise (R126, R127, R128) -/

namespace LinkState

variable {k : LinkState}

theorem errorState_framing_inside (inside : k.asm = .collecting ∨ k.asm = .escaped) :
    k.errorState .framing = some .hunt := by
  rcases inside with asm | asm <;> simp only [errorState, asm]

theorem errorState_framing_outside (outside : k.asm = .held ∨ k.asm = .settling ∨ k.asm = .hunt) :
    k.errorState .framing = none := by
  rcases outside with asm | asm | asm <;> simp only [errorState, asm]

theorem errorState_escape (escaped : k.asm = .escaped) : k.errorState .escape = some .hunt := by
  simp only [errorState, escaped]

theorem errorState_escape_other (other : k.asm ≠ .escaped) : k.errorState .escape = none := by
  cases asm : k.asm
  case escaped => exact absurd asm other
  all_goals simp only [errorState, asm]

theorem errorState_overlength (inside : k.asm = .collecting ∨ k.asm = .escaped) (full : 306 ≤ k.buffer.length) :
    k.errorState .overlength = some .hunt := by
  rcases inside with asm | asm <;> simp only [errorState, asm] <;> exact if_pos full

theorem errorState_overlength_room (room : k.buffer.length < 306) : k.errorState .overlength = none := by
  have notFull : ¬ Config.maxFrame ≤ k.buffer.length := Nat.not_le_of_lt room
  cases asm : k.asm <;> simp only [errorState, asm, if_neg notFull]

/-- A cause that the closing checks find arises where they find it, in a frame that a delimiter would close (R128). -/
theorem errorState_closing {e : ReceiveFault} (found : closingCheck k.buffer = .error e) (collecting : k.asm = .collecting)
    (holds : k.buffer ≠ []) : k.errorState e = some .collecting := by
  have mem := closingCheck_error_mem found
  simp only [List.mem_cons, List.not_mem_nil, or_false] at mem
  rcases mem with rfl | rfl | rfl <;>
    (simp only [errorState, collecting, found]; exact if_pos ⟨trivial, holds⟩)

theorem errorState_closing_none {e : ReceiveFault} (closing : e ∈ [ReceiveFault.shortFrame, .crcMismatch, .lengthDisagreement])
    (cannot : k.asm ≠ .collecting ∨ k.buffer = [] ∨ closingCheck k.buffer ≠ .error e) : k.errorState e = none := by
  have silent (collecting : k.asm = .collecting) {c : ReceiveFault} (found : closingCheck k.buffer = .error c) :
      ¬ (c = e ∧ k.buffer ≠ []) := by
    rintro ⟨rfl, holds⟩
    exact cannot.elim (fun other => other collecting) fun rest => rest.elim holds fun differs => differs found
  simp only [List.mem_cons, List.not_mem_nil, or_false] at closing
  cases asm : k.asm
  case collecting =>
    rcases found : closingCheck k.buffer with c | f
    · have not := silent asm found
      rcases closing with rfl | rfl | rfl <;> simp only [errorState, asm, found] <;> exact if_neg not
    · rcases closing with rfl | rfl | rfl <;> simp only [errorState, asm, found]
  all_goals rcases closing with rfl | rfl | rfl <;> simp only [errorState, asm]

/-! ### A good character (R126) -/

theorem closes_iff (v : Byte) : k.closes v = true ↔ k.asm = .collecting ∧ k.buffer ≠ [] ∧ v = delimiter := by
  simp only [closes, Bool.and_eq_true, decide_eq_true_eq, and_assoc]

/-- Behind an escape a character is read as the code that it stands for (R122, R126). -/
theorem takeCharacter_escaped (escaped : k.asm = .escaped) (v : Byte) :
    k.takeCharacter v =
      if v = delimiter then k.abortFrame
      else if v = 0xBC then k.collect delimiter
      else if v = 0xBD then k.collect escapeByte
      else k.receiveError .hunt := by
  obtain ⟨first, second⟩ : (0xBC ^^^ 0x20 : Byte) = delimiter ∧ (0xBD ^^^ 0x20 : Byte) = escapeByte := by decide
  simp only [takeCharacter, escaped]
  by_cases bc : v = 0xBC
  · rw [if_pos (Or.inl bc), if_pos bc, bc, first]
  · rw [if_neg bc]
    by_cases bd : v = 0xBD
    · rw [if_pos (Or.inr bd), if_pos bd, bd, second]
    · rw [if_neg (not_or.2 ⟨bc, bd⟩), if_neg bd]

end LinkState

/-- A row of a frame that no delimiter would close now. -/
theorem Hub.closeGood_none {h : Hub} {l : Link} {sort : Option ReqKind → Bool}
    (none : ∀ f, h.ClosesOn l f → sort (ReqKind.ofCode f.kind) = false) : h.closeGood l sort = h := by
  have not : h.closesGood l sort = false := by
    unfold closesGood
    split
    · exact none _ ⟨‹_›, ‹_›⟩
    · rfl
  rw [closeGood, not]
  rfl

/-- Settles O11: a character that closes no frame is taken by the assembler's state, then by its value. -/
theorem goodCharacterByStateAndValue : Obligations.GoodCharacterByStateAndValue := by
  intro s l v h k error take notClosing
  have run : exec (.goodCharacter l v) s = .next (s.withHub (h.setLink l (k.takeCharacter v))) := by
    rw [exec_goodCharacter, Hub.goodCharacter, if_neg fun closes => notClosing ((LinkState.closes_iff v).1 closes)]
    rfl
  have counted : k.receiveError .hunt = error := k.receiveError_eq .hunt
  have taken (b : Byte) : k.collect b = take b := by rw [LinkState.collect, counted]; rfl
  clear_value h
  rw [run]
  congr 3
  split
  · rename_i held
    simp only [LinkState.takeCharacter, held]
  · rename_i settling
    simp only [LinkState.takeCharacter, settling]
  · rename_i hunt
    simp only [LinkState.takeCharacter, hunt]
    rfl
  · rename_i collecting
    simp only [LinkState.takeCharacter, collecting, taken]
    rfl
  · rename_i escaped
    rw [LinkState.takeCharacter_escaped escaped, taken, taken, counted]
    rfl

/-- Settles O12: the delimiter closes the frame; a failing one counts as its cause, a good one runs as its row. -/
theorem closingDelimiterActsAsTheFramesRow : Obligations.ClosingDelimiterActsAsTheFramesRow := by
  intro s l h k collecting holds
  have run : exec (.goodCharacter l 0x9C) s = .next (s.withHub (h.closeFrame l)) := by
    have closes : k.closes 0x9C = true := (LinkState.closes_iff _).2 ⟨collecting, holds, rfl⟩
    rw [exec_goodCharacter, Hub.goodCharacter, if_pos closes]
  refine ⟨fun e fails => ?_, fun f good => ?_⟩
  · have counted : exec (.receiveError l e) s = .next (s.withHub (h.setLink l (k.receiveError .collecting))) :=
      exec_receiveError_some (LinkState.errorState_closing fails collecting holds)
    rw [run, counted, Hub.closeFrame_error fails]
    refine ⟨?_, rfl⟩
    rw [LinkState.receiveError_eq, ← collecting]
  · rw [run, exec_command ⟨collecting, good⟩, Hub.closeFrame_ok good]
    rfl

/-- Settles O13: each event by the guard that keeps it from occurring. -/
theorem lineEventsThatCannotOccur : Obligations.LineEventsThatCannotOccur := by
  intro s l h k
  refine ⟨fun c row none => ?_, fun notEscaped => ?_, exec_settlingComplete_other,
    fun room => exec_receiveError_none (LinkState.errorState_overlength_room room),
    fun e closing cannot => exec_receiveError_none (LinkState.errorState_closing_none closing cannot)⟩
  · have idle {sort : Option ReqKind → Bool} (run : exec c s = s.onHub fun h => h.closeGood l sort)
        (names : ∀ f : RxFrame, sort (ReqKind.ofCode f.kind) = true → f.command l = c) :
        exec c s = .next (s.withHub h) := by
      rw [run, State.onHub_next, Hub.closeGood_none fun f closes => Bool.eq_false_iff.2 fun is => none f closes (names f is)]
    simp only [List.mem_cons, List.not_mem_nil, or_false] at row
    rcases row with rfl | rfl | rfl | rfl | rfl | rfl
    · exact idle rfl fun f is => by rw [RxFrame.command, Option.isNone_iff_eq_none.1 is]
    · exact idle rfl fun f is => by rw [RxFrame.command, eq_of_beq is]
    · exact idle rfl fun f is => by rw [RxFrame.command, eq_of_beq is]
    · exact idle rfl fun f is => by rw [RxFrame.command, eq_of_beq is]
    · exact idle rfl fun f is => by rw [RxFrame.command, eq_of_beq is]
    · exact idle rfl fun f is =>
        have ⟨_, kind, bound⟩ := (Option.any_eq_true _ _).1 is
        RxFrame.command_of_engineBound kind bound l
  · exact ⟨exec_abortMark_other notEscaped, exec_receiveError_none (LinkState.errorState_escape_other notEscaped)⟩

/-- Settles O14: the causes that can arise by the assembler's state, then the abort mark and the end of settling. -/
theorem receiveErrorAbortMarkAndSettling : Obligations.ReceiveErrorAbortMarkAndSettling := by
  refine ⟨fun s l => ?_, fun s l => ⟨exec_abortMark_escaped, exec_settlingComplete_settling⟩⟩
  intro h k counted
  have counts {cause : ReceiveFault} (arises : k.errorState cause = some .hunt) :
      exec (.receiveError l cause) s = .next counted := by
    rw [exec_receiveError_some arises, LinkState.receiveError_eq]
  exact ⟨fun inside => counts (LinkState.errorState_framing_inside inside),
    fun escaped => counts (LinkState.errorState_escape escaped),
    fun inside full => counts (LinkState.errorState_overlength inside full),
    fun outside => exec_receiveError_none (LinkState.errorState_framing_outside outside)⟩

/-- Settles O15: the assembler settles first, and then the session by its state. -/
theorem breakSettlesAndEndsTheSession : Obligations.BreakSettlesAndEndsTheSession := by
  intro s l h k
  have run : exec (.lineBreak l) s = .next (s.withHub (h.lineBreak l)) := exec_lineBreak s l
  clear_value h
  rw [run]
  congr 2
  unfold Hub.lineBreak
  by_cases held : (h.link l).asm = .held
  · rw [if_pos held, if_pos held, Hub.setLink_link]
  · rw [if_neg held, if_neg held]
    dsimp only
    split
    · simp only [Hub.modLink, k, ‹(h.link l).session = _›]
    · simp [Hub.endSession, Hub.modLink, k, ‹(h.link l).session = _›]
    · simp [Hub.modLink, k, ‹(h.link l).session = _›]

end Sys2Proof.Machine
end

section
/-! The transmitter (R120, R131, R135, R169 to R171): how a frame begins, the character times of an idle step, how a frame completes. -/

namespace Sys2Proof.Machine

/-! ### A frame begins (R131, R169) -/

namespace LinkState

theorem beginFrame_cons {k : LinkState} {item : TxItem} {items : List TxItem} (list : k.txList = item :: items) (shared : Bool) :
    k.beginFrame shared =
      { k with tx := some { loss := k.loss, rest := lineChars shared (item.frame.bytes k.loss) }, loss := false } := by
  simp only [beginFrame, list]

theorem beginFrame_nil {k : LinkState} (empty : k.txList = []) (shared : Bool) : k.beginFrame shared = k := by
  simp only [beginFrame, empty]

theorem enqueue_nil {k : LinkState} (empty : k.txList = []) (shared : Bool) (item : TxItem) :
    k.enqueue shared item = ({ k with txList := [item] } : LinkState).beginFrame shared := by
  simp only [enqueue, empty, List.isEmpty_nil, if_true, List.nil_append]

theorem enqueue_of_ne_nil {k : LinkState} (sends : k.txList ≠ []) (shared : Bool) (item : TxItem) :
    k.enqueue shared item = { k with txList := k.txList ++ [item] } := by
  rw [enqueue, if_neg (by simpa using sends)]

end LinkState

/-- Settles O25: the two cases of each of `beginFrame` and `enqueue`. -/
theorem transmissionBeginsWithLoss : Obligations.TransmissionBeginsWithLoss :=
  ⟨fun _ shared _ _ list => LinkState.beginFrame_cons list shared, fun _ shared empty => LinkState.beginFrame_nil empty shared,
    fun _ shared item empty => LinkState.enqueue_nil empty shared item,
    fun _ shared item sends => LinkState.enqueue_of_ne_nil sends shared item⟩

/-! ### An idle step (R120, R135; log entry 4) -/

namespace LinkState

variable {k : LinkState}

/-- A character that is not the last is sent, unless the session is being taken down. -/
theorem charTime_cons {loss : Bool} {c c' : Byte} {more : List Byte} (tx : k.tx = some ⟨loss, c :: c' :: more⟩) :
    k.charTime =
      if k.teardown = none then { k with tx := some ⟨loss, c' :: more⟩, wire := k.wire ++ [c] } else k := by
  simp only [charTime, tx, Option.isNone_iff_eq_none]

/-- The closing delimiter waits for FRAME_COMPLETE. -/
theorem charTime_last (last : ∀ loss c c' more, k.tx ≠ some ⟨loss, c :: c' :: more⟩) : k.charTime = k := by
  rcases tx : k.tx with _ | ⟨loss, _ | ⟨c, _ | ⟨c', more⟩⟩⟩
  case some.cons.cons => exact absurd tx (last _ _ _ _)
  all_goals simp only [charTime, tx]

end LinkState

theorem Hub.link_charTime (h : Hub) (l : Link) : h.charTime.link l = (h.link l).charTime :=
  h.link_foldl_modLink LinkState.charTime l

theorem step_idle {s : State} (idle : s.pending = []) : step s = .next (s.withHub s.toHub.catchUp.charTime) := by
  simp only [step, idle]
  rfl

/-- Settles O2: the step is a character time at each link, which looks at the characters that are left. -/
theorem idleStepSendsOneCharacterPerLink : Obligations.IdleStepSendsOneCharacterPerLink := by
  intro s idle h
  have run : step s = .next (s.withHub h.charTime) := step_idle idle
  clear_value h
  refine ⟨s.withHub h.charTime, run, idle, rfl, fun l => (h.link_charTime l).trans ?_⟩
  split
  · exact LinkState.charTime_cons ‹_›
  · rename_i last
    exact LinkState.charTime_last last

/-! ### A frame completes (R135, R154, R170, R171) -/

theorem exec_frameComplete (s : State) (l : Link) :
    exec (.frameComplete l) s = .next (s.withHub (s.toHub.catchUp.frameCompletes l)) := rfl

namespace Hub

variable {h : Hub} {l : Link}

@[simp] theorem setIntake_same (h : Hub) (l : Link) : h.setIntake l (h.intake l) = h := by simp [setIntake, intake]

theorem frameCompletes_silent (silent : (h.link l).tx = none) : h.frameCompletes l = h := by
  simp only [frameCompletes, silent]

/-- While a session end is outstanding a frame with characters before its closing delimiter does not complete. -/
theorem frameCompletes_held {x : Transmission} (tx : (h.link l).tx = some x) (outstanding : (h.link l).teardown ≠ none)
    (before : 1 < x.rest.length) : h.frameCompletes l = h := by
  have held : (h.link l).teardown.isSome ∧ 1 < x.rest.length := ⟨Option.isSome_iff_ne_none.2 outstanding, before⟩
  unfold frameCompletes
  simp only [tx]
  split
  · rename_i is _
    cases is
    exact if_pos held
  · rfl

/-- Any other frame completes: its item leaves the list, its slot is released, what follows the delimiter begins, and its
reports are placed. -/
theorem frameCompletes_eq {x : Transmission} {item : TxItem} {items : List TxItem} (tx : (h.link l).tx = some x)
    (list : (h.link l).txList = item :: items) (free : (h.link l).teardown = none ∨ x.rest.length ≤ 1) :
    h.frameCompletes l =
      (h.setLink l (item.releases
        { h.link l with tx := none, txList := items, wire := (h.link l).wire ++ x.rest }).afterDelimiter).appendIntake l
          item.reports := by
  have passes : ¬ ((h.link l).teardown.isSome ∧ 1 < x.rest.length) := by
    rintro ⟨outstanding, before⟩
    rcases free with none | last
    · rw [none] at outstanding; cases outstanding
    · exact Nat.not_le_of_lt before last
  simp only [frameCompletes, tx, list]
  exact if_neg passes

end Hub

/-- Settles O24: by the class of the head item, whose slot and reports the completion gives. -/
theorem frameCompletionEffects : Obligations.FrameCompletionEffects := by
  refine ⟨fun s l x item items => ?_, fun s l silent => by rw [exec_frameComplete, Hub.frameCompletes_silent silent]⟩
  intro h k tx list sent onward spend
  have run : exec (.frameComplete l) s = .next (s.withHub (h.frameCompletes l)) := exec_frameComplete s l
  have follows (k : LinkState) : k.afterDelimiter = onward k := rfl
  clear_value h
  refine ⟨fun free => ?_, fun outstanding before => by rw [run, Hub.frameCompletes_held tx outstanding before]⟩
  rw [run, Hub.frameCompletes_eq tx list free]
  congr 2
  cases cls : item.cls with
  | response i =>
    simp only [TxItem.releases, TxItem.reports, cls, follows]
    rfl
  | waiterNotice st =>
    simp only [TxItem.releases, TxItem.reports, cls, follows]
    rw [Hub.appendIntake, List.append_assoc]
    rfl
  | sessionNotice =>
    simp only [TxItem.releases, TxItem.reports, cls, follows]
    rw [Hub.appendIntake, List.append_nil]
    exact Hub.setIntake_same _ l

end Sys2Proof.Machine
end

section
/-! The header checks (R130, R141, R177, R178): request kinds, well-formed bodies, and the frames that a link refuses. -/

namespace Sys2Proof.Machine

/-! ### Request kinds (R177) -/

theorem ReqKind.ofCode_code (r : ReqKind) : ReqKind.ofCode r.code = some r := by cases r <;> decide

/-- A byte that names no kind is the code of none. -/
theorem ReqKind.ofCode_eq_none {b : Byte} (other : ∀ r : ReqKind, r.code ≠ b) : ReqKind.ofCode b = none :=
  List.find?_eq_none.2 fun r _ is => other r (eq_of_beq is)

theorem ReqKind.ofCode_of_toNat {b : Byte} (r : ReqKind) (is : b.toNat = r.code.toNat) : ReqKind.ofCode b = some r := by
  rw [BitVec.eq_of_toNat_eq is, ReqKind.ofCode_code]

theorem ReqKind.engineBound_iff (r : ReqKind) : r.engineBound = false ↔ r ∈ [ReqKind.hello, .bye, .ping, .linkStatus] := by
  cases r <;> decide

/-! ### Well-formed bodies (R178) -/

theorem bodyWellFormed_fixed {r : ReqKind} (noName : r.lengthByteAt = none) (noPayload : r ≠ .send) (body : List Byte) :
    bodyWellFormed r body = true ↔ body.length = r.fixedLength := by
  cases r
  case send => exact absurd rfl noPayload
  case hello | createResource | createSignal | createQueue | lookup => cases noName
  all_goals exact decide_eq_true_iff

theorem bodyWellFormed_named {r : ReqKind} {off : Nat} (name : r.lengthByteAt = some off) (body : List Byte) :
    bodyWellFormed r body = true ↔
      off < body.length ∧ (body.getD off 0).toNat ≤ 8 ∧ body.length = r.fixedLength + (body.getD off 0).toNat := by
  have checks : bodyWellFormed r body =
      match body[off]? with
      | none => false
      | some n => decide (n.toNat ≤ 8) && decide (body.length = r.fixedLength + n.toNat) := by
    cases r <;> cases name <;> rfl
  rw [checks, List.getD_eq_getElem?_getD]
  rcases byte : body[off]? with _ | n
  · have short := List.getElem?_eq_none_iff.1 byte
    simp [Nat.not_lt_of_le short]
  · obtain ⟨inside, -⟩ := List.getElem?_eq_some_iff.1 byte
    simp [inside]

/-! ### The frames that a link refuses (R130, R141) -/

theorem RxFrame.verdict_of_unknown {f : RxFrame} (kind : ReqKind.ofCode f.kind = none) : f.verdict = .unknownKind := by
  simp only [verdict, kind]

theorem RxFrame.verdict_of_malformed {f : RxFrame} {r : ReqKind} (kind : ReqKind.ofCode f.kind = some r)
    (bad : f.status ≠ 0 ∨ f.flags ≠ 0 ∨ bodyWellFormed r f.body = false) : f.verdict = .malformed := by
  simp only [verdict, kind]
  by_cases header : f.status ≠ 0 ∨ f.flags ≠ 0
  · exact if_pos header
  · have body : bodyWellFormed r f.body = false :=
      bad.elim (fun s => absurd (Or.inl s) header) fun rest => rest.elim (fun g => absurd (Or.inr g) header) id
    rw [if_neg header, body]
    rfl

namespace Hub

variable {h : Hub} {l : Link} {i : Fin 4} {f : RxFrame}

theorem serve_unknownKind (verdict : f.verdict = .unknownKind) :
    h.serve l i f = h.linkAnswer l i f.kind f.tag .unknownKind [] := by
  simp only [serve, verdict]

theorem serve_malformed (verdict : f.verdict = .malformed) :
    h.serve l i f = h.linkAnswer l i f.kind f.tag .malformed [] := by
  simp only [serve, verdict]

/-- A well-formed frame other than HELLO at a link without a session. -/
theorem serve_noSession {r : ClientRequest} (verdict : f.verdict = .wellFormed r) (noHello : ∀ he, r ≠ .hello he)
    (inactive : (h.link l).session ≠ .active) : h.serve l i f = h.linkAnswer l i f.kind f.tag .noSession [] := by
  cases r with
  | hello he => exact absurd rfl (noHello he)
  | bye => simp only [serve, verdict, serveBye, if_neg inactive]
  | ping => simp only [serve, verdict, servePing, if_neg inactive]
  | linkStatus t => simp only [serve, verdict, serveLinkStatus, if_neg inactive]
  | object r => simp only [serve, verdict, serveRequest, if_neg inactive]

end Hub

theorem requestOf_ne_hello {r : ReqKind} (other : r ≠ .hello) (tag : Byte) (body : List Byte) (he : Hello) :
    requestOf r tag body ≠ .hello he := by
  cases r
  case hello => exact absurd rfl other
  all_goals exact fun is => nomatch is

/-- Settles O17: the table of the kinds, the two sorts of layout, and the frame served by its verdict. -/
theorem linkRefusesFramesByTheirVerdict : Obligations.LinkRefusesFramesByTheirVerdict := by
  refine ⟨fun b => ?_, ReqKind.engineBound_iff, fun body r n row => ?_, fun body r off n row => ?_, fun body => ?_, ?_⟩
  · split
    case h_23 =>
      refine ReqKind.ofCode_eq_none fun r is => ?_
      subst is
      cases r <;> contradiction
    all_goals exact ReqKind.ofCode_of_toNat _ ‹_›
  · simp only [List.mem_cons, Prod.mk.injEq, List.not_mem_nil, or_false] at row
    rcases row with ⟨rfl, rfl⟩ | ⟨rfl, rfl⟩ | ⟨rfl, rfl⟩ | ⟨rfl, rfl⟩ | ⟨rfl, rfl⟩ | ⟨rfl, rfl⟩ | ⟨rfl, rfl⟩ | ⟨rfl, rfl⟩ |
      ⟨rfl, rfl⟩ | ⟨rfl, rfl⟩ | ⟨rfl, rfl⟩ | ⟨rfl, rfl⟩ | ⟨rfl, rfl⟩ | ⟨rfl, rfl⟩ | ⟨rfl, rfl⟩ | ⟨rfl, rfl⟩ <;>
      exact bodyWellFormed_fixed rfl (by decide) body
  · simp only [List.mem_cons, Prod.mk.injEq, List.not_mem_nil, or_false] at row
    rcases row with ⟨rfl, rfl, rfl⟩ | ⟨rfl, rfl, rfl⟩ | ⟨rfl, rfl, rfl⟩ | ⟨rfl, rfl, rfl⟩ | ⟨rfl, rfl, rfl⟩ <;>
      exact bodyWellFormed_named rfl body
  · simp only [bodyWellFormed, Bool.and_eq_true, decide_eq_true_eq]
  · intro s l f i h k answered closes notEnding lowest
    have run {code : ResultCode}
        (serve : (h.setLink l (k.accepted i)).serve l i f = (h.setLink l (k.accepted i)).linkAnswer l i f.kind f.tag code []) :
        exec (f.command l) s = .next (answered code) := by
      rw [exec_served closes notEnding lowest, serve, Hub.linkAnswer_setLink]
    have session : ((h.setLink l (k.accepted i)).link l).session = k.session := by simp
    clear_value h
    refine ⟨fun kind => ?_, fun r kind bad => run (Hub.serve_malformed (RxFrame.verdict_of_malformed kind bad)),
      fun r kind noHello status flags ok idle => ?_⟩
    · have command : f.command l = .unknownKind l := by rw [RxFrame.command, kind]
      rw [← command, run (Hub.serve_unknownKind (RxFrame.verdict_of_unknown kind))]
    · exact run (Hub.serve_noSession (RxFrame.verdict_of_wellFormed kind status flags ok)
        (requestOf_ne_hello noHello f.tag f.body) (by rw [session, idle]; decide))

end Sys2Proof.Machine
end

section
/-! What can happen at a link: a link's record and its intake change by the events listed here, one after another, and by nothing
else. An invariant of the links is one that holds after reset and that each of these events keeps. -/

namespace Sys2Proof.Machine

/-! ### The updates of one link's record -/

namespace LinkState

/-- A frame that the engine hands over with a session number (R167). -/
def handed (k : LinkState) (session : Nat) (item : TxItem) : LinkState :=
  if k.session = .active ∧ k.sessionNo = session then k.enqueue false item
  else
    match item.cls with
    | .response i => if k.window[i] = some session then k.releaseSlot i else k
    | .waiterNotice _ | .sessionNotice => k

/-- A session begun on a HELLO (R143). -/
def begun (k : LinkState) (he : Hello) : LinkState :=
  { k with sessionNo := nextSessionNo k.sessionNo, sessionsBegun := saturate16 k.sessionsBegun, label := he.label,
           keepalive := he.interval, keepaliveCount := if he.interval = 0 then none else some he.interval,
           session := .active }

/-- An ENDING link becomes IDLE; its held HELLO is answered next, if it has one (R157). -/
def left (k : LinkState) : LinkState := { k with session := .idle, heldHello := none }

/-- The frame in transmission has completed (R170). -/
def completed (k : LinkState) (x : Transmission) (item : TxItem) (items : List TxItem) : LinkState :=
  (item.releases { k with tx := none, txList := items, wire := k.wire ++ x.rest }).afterDelimiter

/-- A hub reset reaches the link, up to the answer to a held HELLO (R158, R159). -/
def resetBy (k : LinkState) (tag : Byte) : LinkState :=
  match k.session with
  | .idle => k
  | .active =>
    (({ k with session := .idle, keepaliveCount := none, heldHello := none } : LinkState).takeDown ⟨.hubReset, tag, false⟩).1
  | .ending =>
    match k.teardown with
    | some t => (k.takeDown t).1.left
    | none => k.left

end LinkState

/-! ### The events -/

/-- A link's record and its intake. -/
abbrev Port := LinkState × List Item

/-- The events at a link, as what each leaves of the link's record and its intake. -/
inductive Port.Event : Port → Port → Prop
  | pinReset (p : Port) (manage : Bool) : Event p (.reset manage, [])
  | takeCharacter (k : LinkState) (items : List Item) (v : Byte) : Event (k, items) (k.takeCharacter v, items)
  | receiveError (k : LinkState) (items : List Item) (next : AsmState) : Event (k, items) (k.receiveError next, items)
  | emptyBuffer (k : LinkState) (items : List Item) (next : AsmState) :
      Event (k, items) ({ k with asm := next, buffer := [] }, items)
  | settled {k : LinkState} (items : List Item) (settling : k.asm = .settling) : Event (k, items) ({ k with asm := .hunt }, items)
  | tick (k : LinkState) (items : List Item) : Event (k, items) (Hub.tickAtLink k, items)
  | charTime (k : LinkState) (items : List Item) : Event (k, items) (k.charTime, items)
  | restartKeepalive (k : LinkState) (items : List Item) : Event (k, items) (k.restartKeepalive, items)
  | overrun (k : LinkState) (items : List Item) : Event (k, items) (k.overrun, items)
  | holdHello {k : LinkState} (items : List Item) (held : Option Hello) (ending : k.session = .ending) :
      Event (k, items) ({ k with heldHello := held }, items)
  | takeSlot {k : LinkState} (items : List Item) {i : Fin 4} (free : k.freeSlot = some i) : Event (k, items) (k.takeSlot i, items)
  | answer {k : LinkState} (items : List Item) {i : Fin 4} {item : TxItem} (notEnding : k.session ≠ .ending)
      (free : k.freeSlot = some i) (slot : item.slot? = some i) : Event (k, items) ((k.takeSlot i).enqueue false item, items)
  | beginSession {k : LinkState} (items : List Item) {i : Fin 4} {item : TxItem} {he : Hello} (idle : k.session = .idle)
      (free : k.freeSlot = some i) (slot : item.slot? = some i) (acceptable : he.acceptable = true) :
      Event (k, items) (((k.takeSlot i).begun he).enqueue false item, items)
  | request {k : LinkState} (items : List Item) {rq : Request} (active : k.session = .active) (free : k.freeSlot = some rq.slot)
      (session : rq.session = k.sessionNo) : Event (k, items) (k.takeSlot rq.slot, items ++ [.request rq])
  | endSession (k : LinkState) (items : List Item) (cause : EndCause) (tag : Byte) (held : Option Hello) :
      Event (k, items) (k.ended cause tag held, items)
  | tearDown {k : LinkState} (items : List Item) {t : Teardown} (outstanding : k.teardown = some t) :
      Event (k, items) ((k.takeDown t).1,
        (items ++ (k.stopFrame.2.map TxItem.reports).getD []).filter (Item.stays k.sessionNo) ++ [.purge])
  | frameCompletes {k : LinkState} (items : List Item) {x : Transmission} {item : TxItem} {more : List TxItem}
      (tx : k.tx = some x) (list : k.txList = item :: more) : Event (k, items) (k.completed x item more, items ++ item.reports)
  | notice {k : LinkState} (items : List Item) {item : TxItem} (active : k.session = .active) (slot : item.slot? = none) :
      Event (k, items) (k.enqueue false item, items)
  | reply (k : LinkState) (items : List Item) (rq : Request) {item : TxItem} (slot : item.slot? = some rq.slot) :
      Event (k, .request rq :: items) (k.handed rq.session item, items)
  | report (k : LinkState) {item : Item} (items : List Item) (noRequest : item.request? = none) (noPurge : item ≠ .purge) :
      Event (k, item :: items) (k, items)
  | purge (k : LinkState) (items : List Item) : Event (k, .purge :: items) (if k.session = .ending then k.left else k, items)
  | hubReset (k : LinkState) (items : List Item) (tag : Byte) : Event (k, items) (k.resetBy tag, [])

/-- A number of events, one after another. -/
abbrev Port.Run : Port → Port → Prop := Relation.ReflTransGen Port.Event

theorem Port.Event.run {p q : Port} (event : Event p q) : Run p q := .single event

/-- From `k` to `k'` the record has gone through events that leave the intake as it is, whatever it holds. -/
def LinkState.Runs (k k' : LinkState) : Prop := ∀ items, Port.Run (k, items) (k', items)

theorem LinkState.Runs.refl (k : LinkState) : k.Runs k := fun _ => .refl

theorem LinkState.Runs.trans {k k' k'' : LinkState} (first : k.Runs k') (second : k'.Runs k'') : k.Runs k'' :=
  fun items => (first items).trans (second items)

namespace Hub

def port (h : Hub) (l : Link) : Port := (h.link l, h.intake l)

theorem port_modLink_self (h : Hub) (l : Link) (f : LinkState → LinkState) : (h.modLink l f).port l = (f (h.link l), h.intake l) :=
  congrArg (fun k => (k, h.intake l)) (h.link_modLink_self l f)

theorem port_setLink_setIntake_self (h : Hub) (l : Link) (k : LinkState) (items : List Item) :
    ((h.setLink l k).setIntake l items).port l = (k, items) := by
  rw [port, intake_setIntake_self]
  exact congrArg (fun k => (k, items)) (h.link_setLink_self l k)

/-- From `h` to `h'` each link has gone through events. -/
def Moves (h h' : Hub) : Prop := ∀ m, (h.port m).Run (h'.port m)

theorem Moves.refl (h : Hub) : h.Moves h := fun _ => .refl

theorem Moves.trans {h h' h'' : Hub} (first : h.Moves h') (second : h'.Moves h'') : h.Moves h'' :=
  fun m => (first m).trans (second m)

/-- From `h` to `h'` each link has gone through events that leave the intakes as they are. -/
structure Runs (h h' : Hub) : Prop where
  intakes : h'.intakes = h.intakes
  links : ∀ m, (h.link m).Runs (h'.link m)

/-- Nothing changes at a link. -/
theorem runs_of_same {h h' : Hub} (links : h'.links = h.links) (intakes : h'.intakes = h.intakes) : h.Runs h' :=
  ⟨intakes, fun m => by rw [link, link, links]; exact .refl _⟩

theorem Runs.refl (h : Hub) : h.Runs h := runs_of_same rfl rfl

theorem Runs.trans {h h' h'' : Hub} (first : h.Runs h') (second : h'.Runs h'') : h.Runs h'' :=
  ⟨second.intakes.trans first.intakes, fun m => (first.links m).trans (second.links m)⟩

theorem Runs.moves {h h' : Hub} (runs : h.Runs h') : h.Moves h' := fun m => by
  have same : h'.intake m = h.intake m := congrArg (fun p => p.get m) runs.intakes
  rw [port, port, same]
  exact runs.links m _

/-- A change of one link's record. -/
theorem modLink_runs (h : Hub) (l : Link) {f : LinkState → LinkState} (runs : (h.link l).Runs (f (h.link l))) :
    h.Runs (h.modLink l f) where
  intakes := rfl
  links := fun m => by
    by_cases is : m = l
    · subst is; rw [link_modLink_self]; exact runs
    · rw [link_modLink_other _ _ is]; exact .refl _

/-- What changes nothing but one link and its intake moves every link, if it moves that one. -/
theorem OnlyAt.moves {l : Link} {h h' : Hub} (only : OnlyAt l h h') (run : (h.port l).Run (h'.port l)) : h.Moves h' := fun m => by
  by_cases is : m = l
  · subst is; exact run
  · rw [port, port, only.links m is, only.intakes m is]

end Hub

/-! ### The timebase (R93, R151) -/

namespace Hub

theorem endSession_runs (h : Hub) (l : Link) (cause : EndCause) (tag : Byte) (held : Option Hello) :
    h.Runs (h.endSession l cause tag held) :=
  h.modLink_runs l fun items => (Port.Event.endSession (h.link l) items cause tag held).run

theorem lapse_runs (h : Hub) (l : Link) : h.Runs (h.lapse l) := by
  unfold lapse
  split
  · exact h.endSession_runs l _ _ _
  · exact .refl h

theorem foldl_runs {f : Hub → Link → Hub} (each : ∀ (h : Hub) (l : Link), h.Runs (f h l)) (ls : List Link) (h : Hub) : h.Runs (ls.foldl f h) := by
  induction ls generalizing h with
  | nil => exact .refl h
  | cons l ls ih => exact (each h l).trans (ih _)

theorem catchUp_runs (h : Hub) : h.Runs h.catchUp :=
  .trans (h' := h.moveDue) (runs_of_same rfl rfl) (foldl_runs lapse_runs _ _)

theorem tickEvent_runs (h : Hub) : h.Runs h.tickEvent :=
  .trans (h' := { h with tick := h.tick + 1, ready := true }) (runs_of_same rfl rfl)
    (foldl_runs (fun h l => h.modLink_runs l fun items => (Port.Event.tick _ items).run) _ _)

theorem tickEvents_runs (n : Nat) (h : Hub) : h.Runs (h.tickEvents n) := by
  induction n generalizing h with
  | zero => exact .refl h
  | succ n ih => exact (h.tickEvent_runs.trans (catchUp_runs _)).trans (ih _)

theorem charTime_runs (h : Hub) : h.Runs h.charTime :=
  foldl_runs (fun h l => h.modLink_runs l fun items => (Port.Event.charTime _ items).run) _ _

theorem reset_moves (h : Hub) (p : Straps) : h.Moves (reset p) := fun m => by
  obtain ⟨manage, is⟩ := link_reset p m
  rw [port, port, is, intake_reset]
  exact (Port.Event.pinReset _ manage).run

end Hub
end Sys2Proof.Machine
end

section
/-! What the engine's output and its items make of the links, as events: a notice, the one response of a request that is taken, the
reset, the completion of a purge (R109 to R118, R157, R167). -/

namespace Sys2Proof.Machine
namespace Hub

theorem handOver_eq (h : Hub) (l : Link) (session : Nat) (item : TxItem) :
    h.handOver l session item = h.modLink l fun k => k.handed session item := rfl

/-! ### Notices (R118) -/

theorem notice_runs (h : Hub) (w : Waiter) (kind : Byte) (body : List Byte) (msg : Option MessageRef) :
    h.Runs (h.notice w kind body msg) := by
  refine h.modLink_runs w.link ?_
  split
  · rename_i active
    exact fun items => (Port.Event.notice items active.1 rfl).run
  · exact .refl _

theorem endWait_runs (h : Hub) (w : Waiter) (st : WaiterState) (msg : Option Half) : h.Runs (h.endWait w st msg) := by
  rw [endWait_spec]; exact runs_of_same rfl rfl

theorem abandon_runs (h : Hub) (st : Stamp) : h.Runs (h.abandon st) := by
  unfold abandon
  split
  · exact (h.endWait_runs _ _ _).trans (notice_runs _ _ _ _ _)
  · exact .refl h

theorem abandons_runs (sts : List Stamp) (h : Hub) : h.Runs (sts.foldl abandon h) := by
  induction sts generalizing h with
  | nil => exact .refl h
  | cons st sts ih => exact (h.abandon_runs st).trans (ih _)

theorem setSlot_runs (h : Hub) (i : Fin 48) (sl : Slot) : h.Runs (h.setSlot i sl) := runs_of_same rfl rfl

theorem grant_runs (h : Hub) (w : Waiter) : h.Runs (h.grant w) := (h.endWait_runs _ _ _).trans (notice_runs _ _ _ _ _)

theorem deliver_runs (h : Hub) (q : Queue) (w : Waiter) (m : Message) : h.Runs (h.deliver q w m) :=
  (h.endWait_runs _ _ _).trans (notice_runs _ _ _ _ _)

theorem grantList_runs (i : Fin 48) (sts : List Stamp) (h : Hub) : h.Runs (grantList i sts h) := by
  induction sts generalizing h with
  | nil => exact .refl h
  | cons st sts ih =>
    rw [grantList]
    split
    · rename_i granted
      unfold grantHead at granted
      split at granted
      · obtain ⟨p, -, rfl⟩ := Option.map_eq_some_iff.1 granted
        exact ((h.setSlot_runs i _).trans (grant_runs _ _)).trans (ih _)
      · cases granted
    · exact .refl h

theorem grantPass_runs (h : Hub) (i : Fin 48) : h.Runs (h.grantPass i) := grantList_runs i _ h

theorem passIfHead_runs (h : Hub) (i : Fin 48) (wasHead : Bool) : h.Runs (h.passIfHead i wasHead) := by
  unfold passIfHead
  split
  · exact h.grantPass_runs i
  · exact .refl h

theorem handOut_runs (i : Fin 48) (sts : List Stamp) (h : Hub) : h.Runs (handOut i sts h) := by
  induction sts generalizing h with
  | nil => exact .refl h
  | cons st sts ih =>
    rcases handOut_cons i st sts h with ⟨same, -⟩ | ⟨o, q, w, m, ms, -, -, -, -, eq⟩
    · rw [same]; exact .refl h
    · rw [eq]; exact ((h.setSlot_runs i _).trans (deliver_runs _ _ w m)).trans (ih _)

theorem signalCompanion_runs (h : Hub) (hd : Handle) : h.Runs (h.signalCompanion hd) := by
  rcases h.signalCompanion_cases hd with same | ⟨i, o, g, -, -, -, -, eq⟩
  · rw [same]; exact .refl h
  · rw [eq]; exact (h.setSlot_runs i _).trans (grantPass_runs _ i)

/-! ### Requests (R110) -/

/-- From `h` to `h'`, the request of link `l` taken, the engine has given its one response, between other output. -/
def Responds (l : Link) (rq : Request) (h h' : Hub) : Prop :=
  ∃ before code body msg, h.Runs before ∧ (before.reply l rq code body msg).Runs h'

variable {h : Hub} {l : Link} {rq : Request}

theorem Responds.andThen {h' h'' : Hub} (first : Responds l rq h h') (second : h'.Runs h'') : Responds l rq h h'' :=
  have ⟨before, code, body, msg, runs, behind⟩ := first
  ⟨before, code, body, msg, runs, behind.trans second⟩

theorem Runs.responds {before : Hub} (runs : h.Runs before) {code : ResultCode} {body : List Byte} {msg : Option MessageRef} :
    Responds l rq h (before.reply l rq code body msg) := ⟨before, code, body, msg, runs, .refl _⟩

theorem setSlot_responds {i : Fin 48} {sl : Slot} {code : ResultCode} {body : List Byte} {msg : Option MessageRef} :
    Responds l rq h ((h.setSlot i sl).reply l rq code body msg) := (h.setSlot_runs i sl).responds

theorem reply_responds {code : ResultCode} {body : List Byte} {msg : Option MessageRef} :
    Responds l rq h (h.reply l rq code body msg) := (Runs.refl h).responds

theorem makeWaiter_responds (ticks : Nat) (hd : Handle) (i : Fin 48) (d : Discipline) (op : WaitOp) (amount priority timeout : Nat) :
    Responds l rq h (h.makeWaiter ticks l rq hd i d op amount priority timeout) := by
  have ticked : h.Runs (h.ticked ticks timeout) := by
    unfold Hub.ticked
    split
    · exact .refl h
    · exact h.tickEvents_runs ticks
  rw [makeWaiter_eq]
  refine (ticked.trans (runs_of_same ?_ ?_)).responds <;> rw [claimFor_frame] <;> rfl

theorem acceptSend_responds {i : Fin 48} {o : Obj} (q : Queue) (payload : List Byte) (live : (h.slot i).state = .live o) :
    Responds l rq h (h.acceptSend l rq i q payload) := by
  have sent (m : Message) (ws : List Stamp) : Responds l rq h (h.sent l rq i o q payload m ws) := by
    unfold sent
    refine Runs.responds ?_
    exact runs_of_same rfl rfl
  rcases acceptSend_cases l rq payload live with ⟨w, -, eq⟩ | ⟨-, eq | ⟨c, eq⟩⟩
  · rw [eq]; exact (sent _ _).andThen (deliver_runs _ _ _ _)
  · rw [eq]; exact sent _ _
  · rw [eq]; exact (sent _ _).andThen (signalCompanion_runs _ c)

theorem cancelWaiting_responds (w : Waiter) : Responds l rq h (h.cancelWaiting l rq w) := by
  have freed (h : Hub) : h.Runs ((if w.deadline.isSome then h.removeClaim w.stamp else h).freeRecord w.stamp) := by
    split <;> exact runs_of_same rfl rfl
  unfold cancelWaiting
  dsimp only
  split
  · exact ((h.setSlot_runs _ _).trans (freed _)).responds.andThen (passIfHead_runs _ _ _)
  · exact (freed h).responds

/-- A request other than a HUB_RESET that is carried out gives one response. -/
theorem perform_responds (ticks : Nat) (noReset : rq.body ≠ .hubReset ∨ h.manages l = false) :
    Responds l rq h (rq.body.perform ticks l rq h) := by
  rcases passes : h.refusal l rq with _ | code
  case some => rw [perform_refused ticks passes]; exact reply_responds
  rcases create : rq.body.common? with _ | c
  case some =>
    obtain ⟨p, -, i, -, -, eq⟩ := perform_creates ticks create passes
    rw [eq, create_eq]
    exact setSlot_responds
  cases body : rq.body with
  | createResource c | createSignal c | createQueue c => rw [body] at create; cases create
  | delete hd =>
    obtain ⟨i, o, -, -, eq⟩ := (h.delete_spec l rq hd body).2 passes
    have abandons (ws : List Stamp) : Responds l rq h (ws.foldl abandon (h.reply l rq .ok [] none)) :=
      reply_responds.andThen (abandons_runs _ _)
    rw [ObjReq.perform, eq]
    split
    · exact setSlot_responds
    · exact (abandons _).andThen (setSlot_runs _ i _)
    · rw [deleteQueue_eq]; exact (abandons _).andThen (setSlot_runs _ i _)
  | lookup name =>
    obtain ⟨i, o, -, -, eq⟩ := (h.lookup_spec l rq name body).2 passes
    rw [ObjReq.perform, eq]; exact reply_responds
  | query hd =>
    obtain ⟨i, o, -, -, eq⟩ := (h.query_spec l rq hd body).2 passes
    rw [ObjReq.perform, eq]; exact reply_responds
  | setAccess hd access =>
    obtain ⟨i, o, -, -, -, eq⟩ := (h.setAccess_spec l rq hd access body).2 passes
    rw [ObjReq.perform, eq]; exact setSlot_responds
  | reclaim hd =>
    obtain ⟨i, o, r, -, -, -, -, eq⟩ := (h.reclaimTokens_spec l rq hd body).2 passes
    rw [ObjReq.perform, eq]; exact setSlot_responds.andThen (grantPass_runs _ i)
  | acquire hd amount priority timeout =>
    obtain ⟨i, o, r, -, -, -, atOnce, blocked⟩ := (h.acquire_spec ticks l rq hd amount priority timeout body).2 passes
    rcases b : h.acquireBlocked hd amount
    · obtain ⟨-, -, eq⟩ := atOnce b
      rw [ObjReq.perform, eq]; exact setSlot_responds
    · rw [ObjReq.perform, blocked b]
      split
      · exact (makeWaiter_responds _ _ _ _ _ _ _ _).andThen (grantPass_runs _ i)
      · exact makeWaiter_responds _ _ _ _ _ _ _ _
  | release hd amount =>
    obtain ⟨i, o, r, -, -, -, -, eq⟩ := (h.release_spec l rq hd amount body).2 passes
    rw [ObjReq.perform, eq]; exact setSlot_responds.andThen (grantPass_runs _ i)
  | signal hd amount =>
    obtain ⟨i, o, g, -, -, -, -, eq⟩ := (h.signal_spec l rq hd amount body).2 passes
    rw [ObjReq.perform, eq]; exact setSlot_responds.andThen (grantPass_runs _ i)
  | wait hd priority timeout =>
    obtain ⟨i, o, g, -, -, -, atOnce, blocked⟩ := (h.wait_spec ticks l rq hd priority timeout body).2 passes
    rcases b : h.waitBlocked hd
    · obtain ⟨-, -, eq⟩ := atOnce b
      rw [ObjReq.perform, eq]; exact setSlot_responds
    · rw [ObjReq.perform, blocked b]; exact makeWaiter_responds _ _ _ _ _ _ _ _
  | cancel tag =>
    obtain ⟨w, -, -, -, -, eq⟩ := (h.cancel_spec l rq tag body).2 passes
    rw [ObjReq.perform, eq]; exact cancelWaiting_responds w
  | send hd payload =>
    obtain ⟨i, o, q, -, live, -, -, -, -, eq⟩ := (h.send_spec l rq hd payload body).2 passes
    rw [ObjReq.perform, eq]; exact acceptSend_responds q payload live
  | receive hd priority timeout =>
    obtain ⟨i, o, q, -, -, -, atOnce, blocked⟩ := (h.receive_spec ticks l rq hd priority timeout body).2 passes
    rcases b : h.receiveBlocked hd
    · obtain ⟨older, m, newer, -, -, -, eq⟩ := atOnce b
      rw [ObjReq.perform, eq]; exact setSlot_responds
    · rw [ObjReq.perform, blocked b]; exact makeWaiter_responds _ _ _ _ _ _ _ _
  | flush hd =>
    obtain ⟨i, o, q, -, -, -, eq⟩ := (h.flush_spec l rq hd body).2 passes
    rw [ObjReq.perform, eq]; exact setSlot_responds
  | evict target =>
    obtain ⟨t, -, -, eq⟩ := (h.evict_spec l rq target body).2 passes
    rw [ObjReq.perform, eq]; exact (h.endSession_runs t _ _ _).responds
  | hubReset =>
    rw [ObjReq.perform, hubReset_denied rq (noReset.resolve_left (not_not_intro body))]
    exact reply_responds

end Hub
end Sys2Proof.Machine
end

section
/-! The end of ENDING, the hub reset and the purge as events; then every item that the engine takes (R108, R113, R157, R158). -/

namespace Sys2Proof.Machine
namespace Hub

/-! ### The answer to a HELLO (R142, R143, R157) -/

/-- A HELLO that takes a free slot of an IDLE link begins a session or is answered OUT_OF_RANGE. -/
theorem answerHello_run {h : Hub} {l : Link} {i : Fin 4} (idle : (h.link l).session = .idle) (free : (h.link l).freeSlot = some i)
    (he : Hello) (items : List Item) :
    Port.Run (h.link l, items) (((h.modLink l fun k => k.takeSlot i).answerHello l i he).link l, items) := by
  unfold answerHello
  split
  · rename_i acceptable
    simp only [beginSession, linkAnswer, link_modLink_self]
    exact (Port.Event.beginSession items idle free rfl acceptable).run
  · simp only [linkAnswer, link_modLink_self]
    exact (Port.Event.answer items (by rw [idle]; decide) free rfl).run

/-- An ENDING link leaves ENDING, and then answers its held HELLO. -/
theorem leaveEnding_runs (h : Hub) (l : Link) : (h.link l).left.Runs ((h.leaveEnding l).link l) := by
  intro items
  unfold leaveEnding
  rcases (h.link l).heldHello with _ | he
  · rw [link_modLink_self]; exact .refl
  · have idle : ((h.modLink l LinkState.left).link l).session = .idle := by rw [link_modLink_self]; rfl
    have now : (h.modLink l LinkState.left).link l = (h.link l).left := h.link_modLink_self l _
    show Port.Run _ (link (match ((h.modLink l LinkState.left).link l).freeSlot with
      | none => (h.modLink l LinkState.left).modLink l LinkState.overrun
      | some i => ((h.modLink l LinkState.left).modLink l fun k => k.takeSlot i).answerHello l i he) l, items)
    rw [← now]
    split
    · rw [link_modLink_self _ l LinkState.overrun]
      exact (Port.Event.overrun _ items).run
    · exact answerHello_run idle ‹_› he items

/-! ### HUB_RESET (R115, R158) -/

theorem resetLink_runs (requester : Link) (tag : Byte) (h : Hub) (l : Link) :
    ((h.link l).resetBy (if l = requester then tag else 0)).Runs ((resetLink requester tag h l).link l) := by
  cases session : (h.link l).session with
  | idle => rw [resetLink_of_idle session, LinkState.resetBy, session]; exact .refl _
  | active => rw [link_resetLink_active session, LinkState.resetBy, session]; exact .refl _
  | ending =>
    rw [LinkState.resetBy, resetLink, session]
    rcases (h.link l).teardown with _ | t
    · exact h.leaveEnding_runs l
    · have cut : (h.tearDownAtReset l t).link l = ((h.link l).takeDown t).1 := h.link_modLink_self l _
      dsimp only
      rw [← cut]
      exact leaveEnding_runs _ l

/-- A hub reset empties every intake, whatever stands on it. -/
theorem hubReset_run {h : Hub} {l : Link} (rq : Request) (right : h.manages l = true) (m : Link) (items : List Item) :
    Port.Run (h.link m, items) ((h.hubReset l rq).port m) := by
  have empty : (h.hubReset l rq).intake m = [] := by rw [hubReset_frame rq right]; exact PerLink.get_all [] m
  rw [port, empty, link_hubReset rq right]
  exact (Port.Event.hubReset _ _ _).run.trans (resetLink_runs l rq.tag h m [])

/-! ### The purge (R113) -/

theorem purgeSlot_runs (l : Link) (h : Hub) (i : Fin 48) : h.Runs (purgeSlot l h i).1 := by
  have set (o : Obj) (p : Part) (ws : List Stamp) : h.Runs ((h.without l ws).setLive i o p) := runs_of_same rfl rfl
  cases state : (h.slot i).state with
  | free => simp only [purgeSlot, state]; exact .refl h
  | live o =>
    cases part : o.part with
    | resource r =>
      rw [purgeSlot_resource l state part]
      dsimp only
      split
      · exact set _ _ _
      · exact (set _ _ _).trans (grantPass_runs _ i)
    | signal g =>
      rw [purgeSlot_signal l state part]
      dsimp only
      split
      · exact set _ _ _
      · exact (set _ _ _).trans (grantPass_runs _ i)
    | queue q =>
      rw [purgeSlot_liveQueue l state part]
      exact (set _ _ _).trans (handOut_runs i _ _)
  | draining o =>
    cases part : o.part with
    | resource r | signal g => simp only [purgeSlot, state, part]; exact .refl h
    | queue q => rw [purgeSlot_drainingQueue l state part]; exact runs_of_same rfl rfl

theorem purgeSlots_runs (l : Link) (is : List (Fin 48)) (h : Hub) : h.Runs (purgeSlots l is h).1 := by
  induction is generalizing h with
  | nil => exact .refl h
  | cons i is ih => exact (purgeSlot_runs l h i).trans (ih _)

theorem signalCompanions_runs (hds : List Handle) (h : Hub) : h.Runs (hds.foldl signalCompanion h) := by
  induction hds generalizing h with
  | nil => exact .refl h
  | cons hd hds ih => exact (h.signalCompanion_runs hd).trans (ih _)

/-- A purge is output to the links, and then the completion. -/
theorem purge_runs (h : Hub) (l : Link) : ∃ h', h.purge l = h'.purgeCompletion l ∧ h.Runs h' := by
  have visited := purgeSlots_runs l slotNumbers h
  unfold purge
  dsimp only
  generalize purgeSlots l slotNumbers h = v at visited ⊢
  have freed : v.1.Runs { v.1 with waiters := v.1.waiters.filter fun w => w.link ≠ l } := runs_of_same rfl rfl
  exact ⟨_, rfl, (visited.trans freed).trans (signalCompanions_runs v.2 _)⟩

theorem purgeCompletion_intakes (h : Hub) (l : Link) : (h.purgeCompletion l).intakes = h.intakes := by
  unfold purgeCompletion
  split
  · rw [leaveEnding_frame]
  · rfl

theorem purgeCompletion_run (h : Hub) (l : Link) (items : List Item) :
    Port.Run (h.link l, .purge :: items) ((h.purgeCompletion l).link l, items) := by
  have taken := (Port.Event.purge (h.link l) items).run
  unfold purgeCompletion
  split
  · rw [if_pos ‹_›] at taken
    exact taken.trans (h.leaveEnding_runs l items)
  · rw [if_neg ‹_›] at taken
    exact taken

/-! ### The engine takes an item (R108) -/

/-- The item that the arbiter gives is the head of its link's intake. -/
theorem intake_of_turn {h : Hub} {l : Link} {item : Item} (given : h.turn = some (.item l item)) :
    h.intake l = item :: (h.takeFrom l).intake l := by
  have taken : (h.takeFrom l).intake l = (h.intake l).tail := h.intake_setIntake_self l _
  obtain ⟨source, -, head⟩ := List.exists_of_findSome?_eq_some given
  cases source with
  | link m =>
    obtain ⟨x, first, eq⟩ := Option.map_eq_some_iff.1 head
    cases eq
    rw [taken]
    exact (List.cons_head?_tail first).symm
  | timebase =>
    obtain ⟨x, -, eq⟩ := Option.map_eq_some_iff.1 head
    cases eq

theorem intake_takeFrom_other (h : Hub) {l m : Link} (ne : m ≠ l) : (h.takeFrom l).intake m = h.intake m :=
  h.intake_setIntake_other _ ne

theorem intake_of_intakes {h h' : Hub} (same : h'.intakes = h.intakes) (m : Link) : h'.intake m = h.intake m :=
  congrArg (fun p => p.get m) same

/-- An item taken from a link's intake: the other links by what the engine does, its own link from the intake with the item on. -/
theorem moves_of_taken {h h' : Hub} {l : Link} (others : ∀ m, m ≠ l → ((h.takeFrom l).port m).Run (h'.port m))
    (own : (h.port l).Run (h'.port l)) : h.Moves h' := fun m => by
  by_cases is : m = l
  · subst is; exact own
  · have run := others m is
    rw [port, h.intake_takeFrom_other is] at run
    exact run

theorem Responds.moves {h h' : Hub} {l : Link} {rq : Request} (given : h.Takes l rq)
    (responds : Responds l rq (h.takeFrom l) h') : h.Moves h' := by
  obtain ⟨before, code, body, msg, runs, behind⟩ := responds
  have rest : h'.intake l = (h.takeFrom l).intake l :=
    intake_of_intakes (behind.intakes.trans runs.intakes) l
  refine moves_of_taken (l := l) (fun m ne => ?_) ?_
  · have replied : (before.reply l rq code body msg).port m = before.port m := by
      rw [port, port, reply, link_handOver_other before _ _ ne]
      rfl
    exact (replied ▸ runs.moves m).trans (behind.moves m)
  · have answered : (before.reply l rq code body msg).link l = (before.link l).handed rq.session _ :=
      before.link_modLink_self l _
    have behind' := behind.links l ((h.takeFrom l).intake l)
    rw [answered] at behind'
    rw [port, port, intake_of_turn given, rest]
    exact ((runs.links l _).trans (Port.Event.reply _ _ rq rfl).run).trans behind'

theorem report_moves {h h' : Hub} {l : Link} {item : Item} (given : h.turn = some (.item l item))
    (noRequest : item.request? = none) (noPurge : item ≠ .purge) (runs : (h.takeFrom l).Runs h') : h.Moves h' := by
  refine moves_of_taken (l := l) (fun m _ => runs.moves m) ?_
  rw [port, intake_of_turn given]
  exact (Port.Event.report _ _ noRequest noPurge).run.trans (runs.moves l)

theorem purge_moves {h : Hub} {l : Link} (given : h.turn = some (.item l .purge)) : h.Moves ((h.takeFrom l).purge l) := by
  obtain ⟨h', eq, runs⟩ := (h.takeFrom l).purge_runs l
  have intakes : ((h.takeFrom l).purge l).intakes = (h.takeFrom l).intakes := by
    rw [eq, purgeCompletion_intakes, runs.intakes]
  refine moves_of_taken (l := l) (fun m ne => ?_) ?_
  · have completed : ((h.takeFrom l).purge l).port m = h'.port m := by
      rw [eq, port, port, link_purgeCompletion_other h' ne, intake_of_intakes (h'.purgeCompletion_intakes l)]
    rw [completed]
    exact runs.moves m
  · rw [port, port, intake_of_turn given, intake_of_intakes intakes, link_purge_self]
    exact purgeCompletion_run (h.takeFrom l) l _

theorem freeWaiter_runs (h : Hub) (st : Stamp) : h.Runs (h.freeWaiter st) := by
  unfold freeWaiter
  repeat' split
  all_goals exact runs_of_same rfl rfl

theorem spendMessage_runs (h : Hub) (l : Link) (ref : MessageRef) (session : Nat) (c : Carrier) :
    h.Runs (h.spendMessage l ref session c) := by
  rcases h.spendMessage_cases l ref session c with same | ⟨i, o, q, -, there, -, eq⟩
  · rw [same]; exact .refl h
  · rw [eq, setReclaimed_eq there]; exact h.setSlot_runs i _

theorem expire_runs (h : Hub) (st : Stamp) : h.Runs (h.expire st) := by
  have expired (h : Hub) (w : Waiter) : h.Runs (h.expireRecord w) :=
    .trans (h' := h.modWaiter w.stamp fun x => { x with state := .expired }) (runs_of_same rfl rfl) (notice_runs _ _ _ _ _)
  unfold expire
  repeat' split
  · exact .refl h
  · exact ((h.setSlot_runs _ _).trans (expired _ _)).trans (passIfHead_runs _ _ _)
  · exact expired _ _
  · exact .refl h

theorem turn_moves {turn : Turn} {h : Hub} (ticks : Nat) (given : h.turn = some turn) : h.Moves (turn.perform ticks h) := by
  match turn with
  | .item l (.request rq) =>
    by_cases reset : rq.body = .hubReset ∧ (h.takeFrom l).manages l = true
    · obtain ⟨body, right⟩ := reset
      rw [Turn.perform, body, ObjReq.perform]
      exact fun m => hubReset_run (h := h.takeFrom l) rq right m _
    · refine Responds.moves given (perform_responds ticks ?_)
      rcases right : (h.takeFrom l).manages l
      · exact Or.inr rfl
      · exact Or.inl fun body => reset ⟨body, right⟩
  | .item l (.freeWaiter st) => exact report_moves given rfl (fun is => nomatch is) (freeWaiter_runs _ st)
  | .item l (.spendMessage ref session c) => exact report_moves given rfl (fun is => nomatch is) (spendMessage_runs _ l ref session c)
  | .item l .purge => exact purge_moves given
  | .expiry st =>
    have moved : h.Runs h.takeExpiry.moveDue := runs_of_same rfl rfl
    exact (moved.trans (expire_runs _ st)).moves

end Hub
end Sys2Proof.Machine
end

section
/-! The commands of a line as events, and with them every step: a step moves each link by the events of `Port.Event` alone. -/

namespace Sys2Proof.Machine
namespace Hub

/-! ### A good frame that has taken a service slot (R141, R161) -/

section
variable {h : Hub} {l : Link} {i : Fin 4} (notEnding : (h.link l).session ≠ .ending) (free : (h.link l).freeSlot = some i)
include notEnding free

theorem linkAnswer_run (kind tag : Byte) (code : ResultCode) (body : List Byte) :
    (h.port l).Run (((h.modLink l fun k => k.takeSlot i).linkAnswer l i kind tag code body).port l) := by
  rw [linkAnswer, modLink_modLink, port_modLink_self]
  exact (Port.Event.answer _ notEnding free rfl).run

omit notEnding in
/-- A frame that ends the session keeps its slot until the teardown (R144, R146). -/
theorem endSession_run (cause : EndCause) (tag : Byte) (held : Option Hello) :
    (h.port l).Run (((h.modLink l fun k => k.takeSlot i).endSession l cause tag held).port l) :=
  have taken : h.Moves (h.modLink l fun k => k.takeSlot i) :=
    (h.modLink_runs l fun items => (Port.Event.takeSlot items free).run).moves
  (taken l).trans ((endSession_runs _ l cause tag held).moves l)

theorem serve_run (f : RxFrame) : (h.port l).Run (((h.modLink l fun k => k.takeSlot i).serve l i f).port l) := by
  have answer := linkAnswer_run notEnding free
  have session : ((h.modLink l fun k => k.takeSlot i).link l).session = (h.link l).session := by simp
  unfold serve
  split
  · exact answer _ _ _ _
  · exact answer _ _ _ _
  · rename_i he _
    unfold serveHello
    rw [session]
    split
    · split
      · exact endSession_run free _ _ _
      · exact answer _ _ _ _
    · have idle : (h.link l).session = .idle := by
        cases is : (h.link l).session
        · rfl
        · exact absurd is ‹_›
        · exact absurd is notEnding
      have intakes : ((h.modLink l fun k => k.takeSlot i).answerHello l i he).intake l = h.intake l :=
        intake_of_intakes (by rw [answerHello_frame]; rfl) l
      rw [port, port, intakes]
      exact answerHello_run idle free he _
  · unfold serveBye
    split
    · exact endSession_run free _ _ _
    · exact answer _ _ _ _
  · unfold servePing
    split <;> exact answer _ _ _ _
  · unfold serveLinkStatus
    repeat' split
    all_goals exact answer _ _ _ _
  · unfold serveRequest
    rw [session]
    split
    · have number : ((h.modLink l fun k => k.takeSlot i).link l).sessionNo = (h.link l).sessionNo := by simp
      rw [number, appendIntake, modLink, port_setLink_setIntake_self]
      exact (Port.Event.request (rq := ⟨_, _, i, _⟩) _ ‹_› free rfl).run
    · exact answer _ _ _ _

end

/-! ### Frames that a delimiter closes (R126, R130, R145) -/

variable (h : Hub) (l : Link)

theorem goodFrameEnding_runs {h : Hub} {l : Link} (ending : (h.link l).session = .ending) (f : RxFrame) :
    h.Runs (h.goodFrameEnding l f) := by
  unfold goodFrameEnding
  split
  · exact h.modLink_runs l fun items => (Port.Event.holdHello items _ ending).run
  all_goals exact .refl h

theorem goodFrame_moves (f : RxFrame) : h.Moves (h.goodFrame l f) := by
  refine (h.goodFrame_onlyAt f).moves ?_
  unfold goodFrame
  split
  · exact (goodFrameEnding_runs ‹_› f).moves l
  · have restarted := (h.modLink_runs l (f := LinkState.restartKeepalive)
      fun items => (Port.Event.restartKeepalive _ items).run).moves l
    have notEnding : ((h.modLink l LinkState.restartKeepalive).link l).session ≠ .ending := by simpa using ‹_›
    dsimp only
    split
    · exact restarted.trans ((modLink_runs _ l fun items => (Port.Event.overrun _ items).run).moves l)
    · exact restarted.trans (serve_run notEnding ‹_› f)

theorem closeFrame_moves : h.Moves (h.closeFrame l) := by
  unfold closeFrame
  split
  · exact (h.modLink_runs l fun items => (Port.Event.receiveError _ items _).run).moves
  · exact (h.modLink_runs l fun items => (Port.Event.emptyBuffer (h.link l) items (h.link l).asm).run).moves.trans
      (goodFrame_moves _ l _)

theorem closeGood_moves (sort : Option ReqKind → Bool) : h.Moves (h.closeGood l sort) := by
  unfold closeGood
  split
  · exact h.closeFrame_moves l
  · exact .refl h

theorem goodCharacter_moves (v : Byte) : h.Moves (h.goodCharacter l v) := by
  unfold goodCharacter
  split
  · exact h.closeFrame_moves l
  · exact (h.modLink_runs l fun items => (Port.Event.takeCharacter _ items v).run).moves

/-! ### The other events at a link -/

theorem lineBreak_moves : h.Moves (h.lineBreak l) := by
  have settles : h.Runs (h.modLink l fun k => { k with asm := .settling, buffer := [] }) :=
    h.modLink_runs l fun items => (Port.Event.emptyBuffer (h.link l) items .settling).run
  unfold lineBreak
  split
  · exact .refl h
  · dsimp only
    split
    · exact settles.moves
    · exact (settles.trans (endSession_runs _ l _ _ _)).moves
    · refine (settles.trans (modLink_runs _ l fun items => (Port.Event.holdHello items none ?_).run)).moves
      rw [link_modLink_self]
      assumption

theorem tearDown_moves {t : Teardown} (outstanding : (h.link l).teardown = some t) : h.Moves (h.tearDown l t) := by
  refine (h.tearDown_onlyAt t).moves ?_
  rw [tearDown_eq, port_setLink_setIntake_self]
  exact (Port.Event.tearDown _ outstanding).run

theorem frameCompletes_moves : h.Moves (h.frameCompletes l) := by
  refine h.frameCompletes_onlyAt.moves ?_
  unfold frameCompletes
  dsimp only
  split
  · split
    · exact .refl
    · rw [appendIntake, port_setLink_setIntake_self]
      exact (Port.Event.frameCompletes _ ‹_› ‹_›).run
  · exact .refl

theorem settlingComplete_moves : h.Moves (h.modLink l fun k => if k.asm = .settling then { k with asm := .hunt } else k) := by
  refine (h.modLink_runs l ?_).moves
  split
  · exact fun items => (Port.Event.settled items ‹_›).run
  · exact .refl _

end Hub

/-! ### Every command, every step -/

theorem State.onHub_moves (s : State) {f : Hub → Hub} (moves : ∀ h : Hub, h.Moves (f h)) :
    ∃ t, s.onHub f = .next t ∧ s.toHub.Moves t.toHub :=
  ⟨_, s.onHub_next f, s.toHub.catchUp_runs.moves.trans (moves _)⟩

/-- A command that takes no item. -/
theorem exec_line_moves {c : Instr} (s : State) (takes : c.takesItem = false) : ∃ t, exec c s = .next t ∧ s.toHub.Moves t.toHub := by
  cases c <;> dsimp only [exec]
  case pinReset p => exact s.onHub_moves fun h => h.reset_moves p
  case tickEvent => exact s.onHub_moves fun h => h.tickEvent_runs.moves
  case deadlineDue => exact ⟨_, rfl, (Hub.runs_of_same rfl rfl).moves⟩
  case keepaliveLapse l => exact ⟨_, rfl, (s.toHub.lapse_runs l).moves⟩
  case lineBreak l => exact s.onHub_moves fun h => h.lineBreak_moves l
  case settlingComplete l => exact s.onHub_moves fun h => h.settlingComplete_moves l
  case receiveError l cause =>
    refine s.onHub_moves fun h => ?_
    split
    · exact (h.modLink_runs l fun items => (Port.Event.receiveError _ items _).run).moves
    · exact .refl h
  case abortMark l =>
    refine s.onHub_moves fun h => ?_
    split
    · exact (h.modLink_runs l fun items => (Port.Event.emptyBuffer _ items .hunt).run).moves
    · exact .refl h
  case unknownKind l | hello l | bye l | ping l | linkStatus l | objectRequest l =>
    exact s.onHub_moves fun h => h.closeGood_moves l _
  case sessionEndTeardown l =>
    refine s.onHub_moves fun h => ?_
    split
    · exact h.tearDown_moves l ‹_›
    · exact .refl h
  case frameComplete l => exact s.onHub_moves fun h => h.frameCompletes_moves l
  case goodCharacter l v => exact s.onHub_moves fun h => h.goodCharacter_moves l v
  all_goals cases takes

theorem exec_moves (c : Instr) (s : State) : ∃ t, exec c s = .next t ∧ s.toHub.Moves t.toHub := by
  rcases takes : c.takesItem
  · exact exec_line_moves s takes
  · have caught := s.toHub.catchUp_runs.moves
    rcases exec_item s takes with idle | ⟨ticks, turn, given, rfl⟩
    · exact ⟨_, idle, caught⟩
    · exact ⟨_, exec_turn ticks given, caught.trans (Hub.turn_moves ticks given)⟩

theorem step_moves {s t : State} (run : step s = .next t) : s.toHub.Moves t.toHub := by
  unfold step at run
  split at run
  · obtain ⟨t', run', moves⟩ := s.onHub_moves (f := Hub.charTime) fun h => h.charTime_runs.moves
    cases run.symm.trans run'
    exact moves
  · rename_i c rest _
    obtain ⟨t', run', moves⟩ := exec_moves c { s with pending := rest }
    cases run.symm.trans run'
    exact moves

/-- What holds of every link and its intake, and is kept by every event at a link, is kept by every step. -/
theorem step_keeps {P : Port → Prop} (kept : ∀ p q, Port.Event p q → P p → P q) {s t : State} (run : step s = .next t)
    (before : ∀ l, P (s.toHub.port l)) (l : Link) : P (t.toHub.port l) := by
  have along {p q : Port} (moves : p.Run q) (holds : P p) : P q := by
    induction moves with
    | refl => exact holds
    | tail _ event ih => exact kept _ _ event ih
  exact along (step_moves run l) (before l)

end Sys2Proof.Machine
end

section
/-! The link records stay in range, and the transmitter at the head of its list (R129, R139, R140, R142, R151, R164, R169). -/

namespace Sys2Proof.Machine
namespace LinkState

/-! ### The receiver, the counters and the session record -/

/-- The assembler touches nothing of its link but its state, its buffer, the frame-error counter and LOSS (R126). -/
theorem takeCharacter_receiver (k : LinkState) (v : Byte) :
    k.takeCharacter v =
      { k with asm := (k.takeCharacter v).asm, buffer := (k.takeCharacter v).buffer,
               frameErrors := (k.takeCharacter v).frameErrors, loss := (k.takeCharacter v).loss } := by
  unfold takeCharacter collect
  repeat' split
  all_goals rfl

theorem saturate16_le (n : Nat) : saturate16 n ≤ 65535 := by rw [saturate16_eq]; omega

/-- The fields of a link that `InRange` speaks of. -/
def ranged (k : LinkState) :=
  (k.frameErrors, k.overruns, k.sessionsBegun, k.sessionNo, k.session, k.keepalive, k.keepaliveCount, k.buffer, k.asm)

theorem InRange.of_same {k k' : LinkState} (range : k.InRange) (same : k'.ranged = k.ranged) : k'.InRange := by
  simp only [ranged, Prod.mk.injEq] at same
  obtain ⟨errors, overruns, begun, number, session, interval, count, buffer, asm⟩ := same
  rw [InRange, errors, overruns, begun, number, session, interval, count, buffer, asm]
  exact range

/-- What the receiver does: the assembler's state, its buffer and the frame-error counter. -/
theorem InRange.receiver {k : LinkState} (range : k.InRange) {asm : AsmState} {buffer : List Byte} {errors : Nat} {loss : Bool}
    (counted : errors ≤ 65535) (fits : buffer.length ≤ 306)
    (empty : asm = .held ∨ asm = .settling ∨ asm = .hunt → buffer = []) :
    ({ k with asm := asm, buffer := buffer, frameErrors := errors, loss := loss } : LinkState).InRange := by
  obtain ⟨-, overruns, begun, number, live, interval, counts, stops, most, -, -⟩ := range
  exact ⟨counted, overruns, begun, number, live, interval, counts, stops, most, fits, empty⟩

theorem InRange.receiveError {k : LinkState} (range : k.InRange) (next : AsmState) : (k.receiveError next).InRange :=
  range.receiver (saturate16_le _) (Nat.zero_le _) fun _ => rfl

theorem InRange.emptyBuffer {k : LinkState} (range : k.InRange) (next : AsmState) :
    ({ k with asm := next, buffer := [] } : LinkState).InRange :=
  range.receiver range.1 (Nat.zero_le _) fun _ => rfl

theorem InRange.collect {k : LinkState} (range : k.InRange) (v : Byte) : (k.collect v).InRange := by
  unfold LinkState.collect
  split
  · rename_i room
    refine range.receiver range.1 ?_ fun outside => ?_
    · rw [List.length_append]
      exact room
    · rcases outside with is | is | is <;> cases is
  · exact range.receiveError _

theorem InRange.takeCharacter {k : LinkState} (range : k.InRange) (v : Byte) : (k.takeCharacter v).InRange := by
  have buffer : k.buffer.length ≤ 306 := by
    obtain ⟨-, -, -, -, -, -, -, -, -, fits, -⟩ := range
    exact fits
  cases asm : k.asm with
  | held | settling => simp only [LinkState.takeCharacter, asm]; exact range
  | hunt =>
    simp only [LinkState.takeCharacter, asm]
    split
    · exact range.emptyBuffer _
    · exact range
  | collecting =>
    simp only [LinkState.takeCharacter, asm]
    split
    · exact range
    · split
      · exact range.receiver range.1 buffer fun outside => by rcases outside with is | is | is <;> cases is
      · exact range.collect v
  | escaped =>
    rw [takeCharacter_escaped asm]
    split
    · exact range.emptyBuffer _
    · split
      · exact range.collect _
      · split
        · exact range.collect _
        · exact range.receiveError _

/-- What ends the counting of the keepalive: the link is no longer ACTIVE. -/
theorem InRange.inactive {k : LinkState} (range : k.InRange) {session : SessionState} (inactive : session ≠ .active)
    (live : session ≠ .idle → k.session ≠ .idle) {held : Option Hello} {t : Option Teardown} :
    ({ k with session := session, keepaliveCount := none, heldHello := held, teardown := t } : LinkState).InRange := by
  obtain ⟨errors, overruns, begun, number, named, interval, -, -, -, fits, empty⟩ := range
  exact ⟨errors, overruns, begun, number, fun is => named (live is), interval, fun is => absurd is inactive, fun _ => rfl,
    fun _ is => (nomatch is), fits, empty⟩

theorem InRange.ended {k : LinkState} (range : k.InRange) (cause : EndCause) (tag : Byte) (held : Option Hello) :
    (k.ended cause tag held).InRange := by
  unfold LinkState.ended
  split
  · exact range.inactive (by decide) fun _ => by rw [‹k.session = .active›]; decide
  · exact range

theorem InRange.left {k : LinkState} (range : k.InRange) (ending : k.session = .ending) : k.left.InRange := by
  have stopped : k.keepaliveCount = none := by
    obtain ⟨-, -, -, -, -, -, -, stops, -⟩ := range
    exact stops (by rw [ending]; decide)
  have idle := range.inactive (session := .idle) (by decide) (fun is => absurd rfl is) (held := none) (t := k.teardown)
  rw [← stopped] at idle
  exact idle

theorem nextSessionNo_range (n : Nat) : 1 ≤ nextSessionNo n ∧ nextSessionNo n ≤ 255 := by
  unfold nextSessionNo; split <;> omega

theorem InRange.begun {k : LinkState} (range : k.InRange) {he : Hello} (acceptable : he.acceptable = true) : (k.begun he).InRange := by
  obtain ⟨errors, overruns, -, -, -, -, -, -, -, fits, empty⟩ := range
  have interval : he.interval = 0 ∨ (100 ≤ he.interval ∧ he.interval ≤ 60000) := by
    simp only [Hello.acceptable, Bool.and_eq_true, Bool.or_eq_true, decide_eq_true_eq] at acceptable
    exact acceptable.2
  obtain ⟨least, most⟩ := nextSessionNo_range k.sessionNo
  refine ⟨errors, overruns, saturate16_le _, most, fun _ => least, interval, fun _ => ?_, fun is => absurd rfl is,
    fun n is => ?_, fits, empty⟩
  · by_cases none : he.interval = 0 <;> simp [LinkState.begun, none]
  · simp only [LinkState.begun] at is ⊢
    split at is
    · cases is
    · exact Nat.le_of_eq (Option.some.inj is).symm

theorem InRange.tickAtLink {k : LinkState} (range : k.InRange) : (Hub.tickAtLink k).InRange := by
  obtain ⟨errors, overruns, begun, number, live, interval, counts, stops, most, fits, empty⟩ := range
  rw [Hub.tickAtLink_eq]
  refine ⟨errors, overruns, begun, number, live, interval, fun active => ?_, fun inactive => ?_, fun n is => ?_, fits, fun is => ?_⟩
  · simpa [if_pos active] using counts active
  · simpa [if_neg inactive] using stops inactive
  · dsimp only at is ⊢
    split at is
    · obtain ⟨m, count, rfl⟩ := Option.map_eq_some_iff.1 is
      exact (Nat.sub_le _ _).trans (most m count)
    · exact most n is
  · dsimp only at is ⊢
    split at is
    · exact empty (Or.inl ‹_›)
    · exact empty is

theorem InRange.restartKeepalive {k : LinkState} (range : k.InRange) : k.restartKeepalive.InRange := by
  unfold LinkState.restartKeepalive
  split
  · rename_i counting
    obtain ⟨errors, overruns, begun, number, live, interval, -, -, -, fits, empty⟩ := range
    exact ⟨errors, overruns, begun, number, live, interval, fun _ => ⟨fun is => (nomatch is), fun is => absurd is counting.2⟩,
      fun is => absurd counting.1 is, fun n is => Nat.le_of_eq (Option.some.inj is).symm, fits, empty⟩
  · exact range

theorem InRange.overrun {k : LinkState} (range : k.InRange) : k.overrun.InRange := by
  obtain ⟨errors, -, begun, number, live, interval, counts, stops, most, fits, empty⟩ := range
  exact ⟨errors, saturate16_le _, begun, number, live, interval, counts, stops, most, fits, empty⟩

/-! ### The transmitter's updates leave the range -/

section
variable (k : LinkState)

theorem ranged_enqueue (shared : Bool) (item : TxItem) : (k.enqueue shared item).ranged = k.ranged := by simp [ranged]

theorem ranged_takeDown (t : Teardown) : (k.takeDown t).1.ranged = k.ranged := by simp [ranged]

theorem ranged_handed (session : Nat) (item : TxItem) : (k.handed session item).ranged = k.ranged := by
  unfold handed
  split
  · exact k.ranged_enqueue _ _
  · repeat' split
    all_goals rfl

theorem ranged_completed (x : Transmission) (item : TxItem) (items : List TxItem) : (k.completed x item items).ranged = k.ranged := by
  unfold completed TxItem.releases
  split <;> simp [ranged]

theorem ranged_charTime : k.charTime.ranged = k.ranged := by
  unfold charTime
  repeat' split
  all_goals rfl

theorem ranged_takeSlot (i : Fin 4) : (k.takeSlot i).ranged = k.ranged := rfl

end

theorem InRange.resetBy {k : LinkState} (range : k.InRange) (tag : Byte) : (k.resetBy tag).InRange := by
  unfold LinkState.resetBy
  split
  · exact range
  · exact (range.inactive (session := .idle) (by decide) (fun is => absurd rfl is) (t := k.teardown)).of_same (ranged_takeDown _ _)
  · rename_i ending
    split
    · exact (range.of_same (ranged_takeDown _ _)).left (by simpa using ending)
    · exact range.left ending

end LinkState

theorem LinkState.reset_inRange (manage : Bool) : (LinkState.reset manage).InRange := by simp [reset, InRange]

/-- Every event at a link keeps its record in range. -/
theorem Port.Event.inRange {p q : Port} (event : Event p q) (range : p.1.InRange) : q.1.InRange := by
  cases event with
  | pinReset _ manage => exact LinkState.reset_inRange manage
  | takeCharacter k _ v => exact range.takeCharacter v
  | receiveError k _ next => exact range.receiveError next
  | emptyBuffer k _ next => exact range.emptyBuffer next
  | settled _ settling =>
    have fields := range
    obtain ⟨errors, -, -, -, -, -, -, -, -, fits, empty⟩ := fields
    exact range.receiver errors fits fun _ => empty (Or.inr (Or.inl settling))
  | tick => exact range.tickAtLink
  | charTime k => exact range.of_same k.ranged_charTime
  | restartKeepalive => exact range.restartKeepalive
  | overrun => exact range.overrun
  | holdHello => exact range.of_same rfl
  | takeSlot => exact range.of_same rfl
  | answer => exact range.of_same (LinkState.ranged_enqueue _ _ _)
  | @beginSession k _ i _ _ _ _ _ acceptable =>
    have taken : (k.takeSlot i).InRange := range.of_same rfl
    exact (taken.begun acceptable).of_same (LinkState.ranged_enqueue _ _ _)
  | request => exact range.of_same rfl
  | endSession _ _ cause tag held => exact range.ended cause tag held
  | @tearDown k _ t => exact range.of_same (k.ranged_takeDown t)
  | frameCompletes => exact range.of_same (LinkState.ranged_completed _ _ _ _)
  | notice => exact range.of_same (LinkState.ranged_enqueue _ _ _)
  | reply k => exact range.of_same (k.ranged_handed _ _)
  | report => exact range
  | purge =>
    dsimp only
    split
    · exact range.left ‹_›
    · exact range
  | hubReset _ _ tag => exact range.resetBy tag

/-! ### The transmitter (R135, R169) -/

namespace LinkState

theorem getLast_lineChars (shared : Bool) (bytes : List Byte) : (lineChars shared bytes).getLast? = some delimiter := by
  rw [lineChars, List.getLast?_concat]

/-- The fields of a link that `Transmitting` speaks of. -/
theorem Transmitting.of_same {k k' : LinkState} (transmits : k.Transmitting) (tx : k'.tx = k.tx) (list : k'.txList = k.txList)
    (teardown : k'.teardown = k.teardown) : k'.Transmitting := by
  rw [Transmitting, tx, list, teardown]
  exact transmits

/-- A transmitter that has stopped begins with the head of its list, if it has one. -/
theorem transmitting_beginFrame {k : LinkState} (silent : k.tx = none) (shared : Bool) : (k.beginFrame shared).Transmitting := by
  rcases list : k.txList with _ | ⟨item, items⟩
  · rw [beginFrame_nil list]
    exact ⟨fun _ => Or.inl list, fun t is => by rw [silent] at is; cases is⟩
  · rw [beginFrame_cons list]
    refine ⟨fun is => (nomatch is), fun t is => ⟨by rw [list]; exact List.cons_ne_nil _ _, ?_⟩⟩
    cases is
    exact getLast_lineChars _ _

theorem Transmitting.silent {k : LinkState} (transmits : k.Transmitting) (empty : k.txList = []) : k.tx = none := by
  rcases tx : k.tx with _ | t
  · rfl
  · exact absurd empty (transmits.2 t tx).1

theorem Transmitting.enqueue {k : LinkState} (transmits : k.Transmitting) (shared : Bool) (item : TxItem) :
    (k.enqueue shared item).Transmitting := by
  by_cases empty : k.txList = []
  · rw [enqueue_nil empty]
    exact transmitting_beginFrame (k := { k with txList := [item] }) (transmits.silent empty) shared
  · rw [enqueue_of_ne_nil empty]
    refine ⟨fun silent => Or.inr ((transmits.1 silent).resolve_left empty), fun t is => ⟨?_, (transmits.2 t is).2⟩⟩
    exact List.append_ne_nil_of_right_ne_nil _ (List.cons_ne_nil _ _)

theorem transmitting_of_empty {k : LinkState} (silent : k.tx = none) (empty : k.txList = []) : k.Transmitting :=
  ⟨fun _ => Or.inl empty, fun t is => by rw [silent] at is; cases is⟩

/-- A teardown leaves SESSION_ENDED in transmission, or nothing (R154). -/
theorem transmitting_takeDown (k : LinkState) (t : Teardown) : (k.takeDown t).1.Transmitting := by
  rw [takeDown_eq]
  dsimp only
  split
  · exact transmitting_of_empty rfl rfl
  · exact (transmitting_of_empty rfl rfl).enqueue _ _

theorem transmitting_afterDelimiter {k : LinkState} (silent : k.tx = none) : k.afterDelimiter.Transmitting := by
  unfold afterDelimiter
  split
  · exact transmitting_beginFrame silent true
  · exact ⟨fun _ => Or.inr rfl, fun t is => by rw [show k.tx = some t from is] at silent; cases silent⟩

theorem transmitting_completed (k : LinkState) (x : Transmission) (item : TxItem) (items : List TxItem) :
    (k.completed x item items).Transmitting := by
  refine transmitting_afterDelimiter ?_
  unfold TxItem.releases
  split <;> rfl

theorem Transmitting.charTime {k : LinkState} (transmits : k.Transmitting) : k.charTime.Transmitting := by
  by_cases sends : ∃ loss c c' more, k.tx = some ⟨loss, c :: c' :: more⟩
  · obtain ⟨loss, c, c', more, tx⟩ := sends
    obtain ⟨list, last⟩ := transmits.2 _ tx
    rw [charTime_cons tx]
    split
    · refine ⟨fun is => (nomatch is), fun t is => ⟨list, ?_⟩⟩
      cases is
      exact last
    · exact transmits
  · rw [charTime_last fun loss c c' more tx => sends ⟨loss, c, c', more, tx⟩]
    exact transmits

theorem Transmitting.handed {k : LinkState} (transmits : k.Transmitting) (session : Nat) (item : TxItem) :
    (k.handed session item).Transmitting := by
  unfold LinkState.handed
  split
  · exact transmits.enqueue _ _
  · repeat' split
    all_goals exact transmits.of_same rfl rfl rfl

theorem Transmitting.ended {k : LinkState} (transmits : k.Transmitting) (cause : EndCause) (tag : Byte) (held : Option Hello) :
    (k.ended cause tag held).Transmitting := by
  unfold LinkState.ended
  split
  · exact ⟨fun _ => Or.inr rfl, transmits.2⟩
  · exact transmits

theorem Transmitting.resetBy {k : LinkState} (transmits : k.Transmitting) (tag : Byte) : (k.resetBy tag).Transmitting := by
  unfold LinkState.resetBy
  split
  · exact transmits
  · exact transmitting_takeDown _ _
  · split
    · exact (transmitting_takeDown _ _).of_same rfl rfl rfl
    · exact transmits.of_same rfl rfl rfl

end LinkState

/-- Every event at a link keeps the transmitter at the head of its list. -/
theorem Port.Event.transmitting {p q : Port} (event : Event p q) (transmits : p.1.Transmitting) : q.1.Transmitting := by
  cases event with
  | pinReset => exact LinkState.transmitting_of_empty rfl rfl
  | takeCharacter k _ v => rw [k.takeCharacter_receiver v]; exact transmits.of_same rfl rfl rfl
  | receiveError | emptyBuffer | settled | overrun | holdHello | takeSlot | request => exact transmits.of_same rfl rfl rfl
  | tick k => rw [Hub.tickAtLink_eq]; exact transmits.of_same rfl rfl rfl
  | charTime => exact transmits.charTime
  | restartKeepalive k => exact transmits.of_same k.restartKeepalive_tx k.restartKeepalive_txList k.restartKeepalive_teardown
  | @answer k _ i =>
    have taken : (k.takeSlot i).Transmitting := transmits.of_same rfl rfl rfl
    exact taken.enqueue _ _
  | @beginSession k _ i _ he =>
    have begun : ((k.takeSlot i).begun he).Transmitting := transmits.of_same rfl rfl rfl
    exact begun.enqueue _ _
  | endSession _ _ cause tag held => exact transmits.ended cause tag held
  | tearDown => exact LinkState.transmitting_takeDown _ _
  | frameCompletes => exact LinkState.transmitting_completed _ _ _ _
  | notice => exact transmits.enqueue _ _
  | reply => exact transmits.handed _ _
  | report => exact transmits
  | purge =>
    dsimp only
    split
    · exact transmits.of_same rfl rfl rfl
    · exact transmits
  | hubReset _ _ tag => exact transmits.resetBy tag

/-- Settles O58: both invariants are kept by every event at a link. -/
theorem stepKeepsLinksInRange : Obligations.StepKeepsLinksInRange := fun _ _ range transmits run =>
  ⟨step_keeps (P := fun p => p.1.InRange) (fun _ _ event => event.inRange) run range,
    step_keeps (P := fun p => p.1.Transmitting) (fun _ _ event => event.transmitting) run transmits⟩

end Sys2Proof.Machine
end

section
/-! Sessions on their way out, and service slots bound to one answer each (R106, R145, R154, R157, R161, R168), event by event. -/

namespace Sys2Proof.Machine

/-! ### One link and its intake -/

/-- The service slots that the responses and the untaken requests of a link hold. -/
def Port.boundSlots (p : Port) : List (Fin 4) :=
  p.1.txList.filterMap TxItem.slot? ++ (p.2.filterMap Item.request?).map Request.slot

/-- The purge items on an intake. -/
def purgeCount (items : List Item) : Nat := items.countP fun i => i == .purge

/-- A link is ENDING exactly while its teardown or its one purge item is outstanding (R154, R157). -/
structure Port.SessionSound (p : Port) : Prop where
  ending : p.1.session = .ending →
    (p.1.teardown.isSome = true ∧ purgeCount p.2 = 0) ∨ (p.1.teardown = none ∧ purgeCount p.2 = 1)
  notEnding : p.1.session ≠ .ending → p.1.teardown = none ∧ p.1.heldHello = none ∧ purgeCount p.2 = 0
  delimiter : ∀ e, p.1.teardown = some e → e.delimiterSent = true → p.1.tx = none

/-- Every response and every untaken request holds a slot of its own, and the requests are of the present session (R161, R168). -/
structure Port.SlotsSound (p : Port) : Prop where
  distinct : p.boundSlots.Nodup
  held : ∀ i ∈ p.boundSlots, p.1.window[i] ≠ none
  present : ∀ r ∈ p.2.filterMap Item.request?, r.session = p.1.sessionNo ∧
    (p.1.session = .active ∨ (p.1.session = .ending ∧ p.1.teardown ≠ none))

/-- The two together: what the events keep. -/
structure Port.Sound (p : Port) : Prop where
  session : p.SessionSound
  slots : p.SlotsSound

theorem Hub.sound_iff (h : Hub) : h.SessionsSound ∧ h.ServiceSlotsSound ↔ ∀ l, (h.port l).Sound := by
  constructor
  · rintro ⟨sessions, slots⟩ l
    obtain ⟨ending, notEnding, delimiter⟩ := sessions l
    obtain ⟨distinct, held, present⟩ := slots l
    exact ⟨⟨ending, notEnding, delimiter⟩, ⟨distinct, held, present⟩⟩
  · intro sound
    exact ⟨fun l => ⟨(sound l).session.ending, (sound l).session.notEnding, (sound l).session.delimiter⟩,
      fun l => ⟨(sound l).slots.distinct, (sound l).slots.held, (sound l).slots.present⟩⟩

/-! ### Slots of the window (R161) -/

namespace LinkState

theorem window_takeSlot (k : LinkState) (i j : Fin 4) :
    (k.takeSlot i).window[j] = if i = j then some k.sessionNo else k.window[j] := by
  simp only [takeSlot, Fin.getElem_fin, Vector.getElem_set, Fin.ext_iff]

theorem window_releaseSlot (k : LinkState) (i j : Fin 4) : (k.releaseSlot i).window[j] = if i = j then none else k.window[j] := by
  simp only [releaseSlot, Fin.getElem_fin, Vector.getElem_set, Fin.ext_iff]

theorem free_of_freeSlot {k : LinkState} {i : Fin 4} (free : k.freeSlot = some i) : k.window[i] = none :=
  by simpa using List.find?_some free

@[simp] theorem enqueue_txList (k : LinkState) (shared : Bool) (item : TxItem) : (k.enqueue shared item).txList = k.txList ++ [item] := by
  unfold enqueue
  dsimp only
  split <;> simp

end LinkState

theorem filterMap_request_reports (item : TxItem) : item.reports.filterMap Item.request? = [] := by
  unfold TxItem.reports TxItem.spendReport
  repeat' split
  all_goals rfl

theorem purgeCount_reports (item : TxItem) : purgeCount item.reports = 0 := by
  unfold TxItem.reports TxItem.spendReport
  repeat' split
  all_goals rfl

theorem purgeCount_append (items more : List Item) : purgeCount (items ++ more) = purgeCount items + purgeCount more :=
  List.countP_append

/-! ### Changes that the slots do not see -/

namespace Port

variable {p q : Port}

/-- The slots that remain are still held, and the requests that remain are still of the present session. -/
theorem SlotsSound.of_sublist (sound : p.SlotsSound) (fewer : q.boundSlots.Sublist p.boundSlots)
    (held : ∀ i ∈ q.boundSlots, p.1.window[i] ≠ none → q.1.window[i] ≠ none)
    (present : ∀ r ∈ q.2.filterMap Item.request?, r.session = q.1.sessionNo ∧
      (q.1.session = .active ∨ (q.1.session = .ending ∧ q.1.teardown ≠ none))) : q.SlotsSound where
  distinct := sound.distinct.sublist fewer
  held := fun i mem => held i mem (sound.held i (fewer.subset mem))
  present := present

/-- A change that leaves the session, its end, the transmit list and the window. -/
theorem Sound.of_same {k k' : LinkState} {items : List Item} (sound : Sound (k, items)) (session : k'.session = k.session)
    (number : k'.sessionNo = k.sessionNo) (teardown : k'.teardown = k.teardown) (heldHello : k'.heldHello = k.heldHello)
    (list : k'.txList = k.txList) (window : k'.window = k.window) (silent : k.tx = none → k'.tx = none) :
    Sound (k', items) := by
  obtain ⟨⟨ending, notEnding, delimiter⟩, ⟨distinct, held, present⟩⟩ := sound
  have same : boundSlots (k', items) = boundSlots (k, items) := by rw [Port.boundSlots, list]; rfl
  refine ⟨⟨?_, ?_, ?_⟩, ⟨?_, ?_, ?_⟩⟩
  · rw [session, teardown]; exact ending
  · rw [session, teardown, heldHello]; exact notEnding
  · rw [teardown]; exact fun e is sent => silent (delimiter e is sent)
  · rw [same]; exact distinct
  · rw [same]; exact fun i mem => by rw [window]; exact held i mem
  · rw [session, teardown, number]; exact present

theorem sound_fresh {k : LinkState} (session : k.session = .idle) (teardown : k.teardown = none) (heldHello : k.heldHello = none)
    (slots : SlotsSound (k, [])) : Sound (k, []) where
  session :=
    { ending := fun is => by rw [show k.session = .ending from is] at session; cases session
      notEnding := fun _ => ⟨teardown, heldHello, rfl⟩
      delimiter := fun e is => by rw [show k.teardown = some e from is] at teardown; cases teardown }
  slots := slots

theorem slotsSound_of_nil {k : LinkState} (none : k.txList.filterMap TxItem.slot? = []) : SlotsSound (k, []) := by
  have same : boundSlots (k, []) = [] := by rw [Port.boundSlots, none]; rfl
  exact ⟨by rw [same]; exact List.nodup_nil, fun i mem => (by rw [same] at mem; cases mem), fun _ mem => nomatch mem⟩

/-- With no session there is no untaken request. -/
theorem Sound.noRequest {k : LinkState} {items : List Item} (sound : Sound (k, items))
    (gone : k.session = .idle ∨ k.session = .ending ∧ k.teardown = none) : items.filterMap Item.request? = [] := by
  refine List.eq_nil_iff_forall_not_mem.2 fun r mem => ?_
  obtain ⟨-, live⟩ := sound.slots.present r mem
  rcases gone with idle | ⟨ending, none⟩
  · rw [show ((k, items) : Port).1.session = .idle from idle] at live
    rcases live with is | ⟨is, -⟩ <;> cases is
  · rcases live with active | ⟨-, some⟩
    · rw [show ((k, items) : Port).1.session = .ending from ending] at active; cases active
    · exact some none

/-! ### A slot taken, a response appended (R161, R166, R167) -/

theorem slots_answer {k k' : LinkState} {items : List Item} {item : TxItem} {i : Fin 4} (slot : item.slot? = some i)
    (list : k'.txList = k.txList ++ [item]) : (boundSlots (k', items)).Perm (i :: boundSlots (k, items)) := by
  simp only [Port.boundSlots, list, List.filterMap_append, List.filterMap_cons, slot, List.filterMap_nil, List.append_assoc,
    List.singleton_append]
  exact List.perm_middle

theorem slots_request {k k' : LinkState} {items : List Item} {rq : Request} (list : k'.txList = k.txList) :
    (boundSlots (k', items ++ [.request rq])).Perm (rq.slot :: boundSlots (k, items)) := by
  simp only [Port.boundSlots, list, List.filterMap_append, List.filterMap_cons, Item.request?, List.filterMap_nil, List.map_append,
    List.map_cons, List.map_nil, ← List.append_assoc]
  exact List.perm_append_singleton _ _

theorem slots_taken {k : LinkState} {items : List Item} (rq : Request) :
    (boundSlots (k, .request rq :: items)).Perm (rq.slot :: boundSlots (k, items)) := List.perm_middle

/-- A slot that nothing else is bound to is bound to one answer. -/
theorem SlotsSound.bind {i : Fin 4} (sound : p.SlotsSound) (loose : i ∉ p.boundSlots) (perm : q.boundSlots.Perm (i :: p.boundSlots))
    (taken : q.1.window[i] ≠ none) (others : ∀ j, j ≠ i → q.1.window[j] = p.1.window[j])
    (present : ∀ r ∈ q.2.filterMap Item.request?, r.session = q.1.sessionNo ∧
      (q.1.session = .active ∨ (q.1.session = .ending ∧ q.1.teardown ≠ none))) : q.SlotsSound where
  distinct := perm.nodup_iff.2 (List.nodup_cons.2 ⟨loose, sound.distinct⟩)
  held := fun j mem => by
    by_cases is : j = i
    · subst is; exact taken
    · rw [others j is]
      exact sound.held j ((List.mem_cons.1 (perm.mem_iff.1 mem)).resolve_left is)
  present := present

/-- A request that is taken leaves its slot bound to nothing, until it is answered. -/
theorem Sound.taken {k : LinkState} {items : List Item} {rq : Request} (sound : Sound (k, .request rq :: items)) :
    Sound (k, items) ∧ rq.slot ∉ boundSlots (k, items) := by
  obtain ⟨⟨ending, notEnding, delimiter⟩, ⟨distinct, held, present⟩⟩ := sound
  have perm : (boundSlots (k, .request rq :: items)).Perm (rq.slot :: boundSlots (k, items)) := slots_taken rq
  obtain ⟨loose, rest⟩ := List.nodup_cons.1 (perm.nodup_iff.1 distinct)
  have count : purgeCount (.request rq :: items) = purgeCount items := rfl
  dsimp only at ending notEnding
  rw [count] at ending notEnding
  exact ⟨⟨⟨ending, notEnding, delimiter⟩, ⟨rest, fun i mem => held i (perm.mem_iff.2 (List.mem_cons_of_mem _ mem)),
    fun r mem => present r (List.mem_cons_of_mem _ mem)⟩⟩, loose⟩

theorem Sound.loose {k : LinkState} {items : List Item} (sound : Sound (k, items)) {i : Fin 4} (free : k.freeSlot = some i) :
    i ∉ boundSlots (k, items) := fun mem => sound.slots.held i mem (LinkState.free_of_freeSlot free)

/-- A link that is not ENDING and stays so has nothing of a session end. -/
theorem SessionSound.stays (sound : p.SessionSound) (before : p.1.session ≠ .ending) (after : q.1.session ≠ .ending)
    (teardown : q.1.teardown = p.1.teardown) (heldHello : q.1.heldHello = p.1.heldHello)
    (count : purgeCount q.2 = purgeCount p.2) : q.SessionSound := by
  obtain ⟨none, noHello, noPurge⟩ := sound.notEnding before
  exact ⟨fun is => absurd is after, fun _ => ⟨teardown.trans none, heldHello.trans noHello, count.trans noPurge⟩,
    fun e is => by rw [teardown, none] at is; cases is⟩

/-! ### The events -/

section
variable {k : LinkState} {items : List Item} (sound : Sound (k, items))
include sound

theorem Sound.holdHello (held : Option Hello) (ending : k.session = .ending) : Sound ({ k with heldHello := held }, items) where
  session := ⟨sound.session.ending, fun is => absurd ending is, sound.session.delimiter⟩
  slots := ⟨sound.slots.distinct, sound.slots.held, sound.slots.present⟩

theorem Sound.takeSlot (i : Fin 4) : Sound (k.takeSlot i, items) where
  session := ⟨sound.session.ending, sound.session.notEnding, sound.session.delimiter⟩
  slots := sound.slots.of_sublist (List.Sublist.refl _)
    (fun j _ is => by
      rw [LinkState.window_takeSlot]
      split
      · exact Option.some_ne_none _
      · exact is) sound.slots.present

theorem Sound.releaseSlot {i : Fin 4} (loose : i ∉ boundSlots (k, items)) : Sound (k.releaseSlot i, items) where
  session := ⟨sound.session.ending, sound.session.notEnding, sound.session.delimiter⟩
  slots := sound.slots.of_sublist (List.Sublist.refl _)
    (fun j mem is => by
      have other : i ≠ j := fun same => loose (same ▸ mem)
      rw [LinkState.window_releaseSlot, if_neg other]
      exact is) sound.slots.present

/-- A response in a slot that the link holds and that is bound to nothing else (R166, R167). -/
theorem Sound.respond {i : Fin 4} {item : TxItem} (notEnding : k.session ≠ .ending) (slot : item.slot? = some i)
    (loose : i ∉ boundSlots (k, items)) (taken : k.window[i] ≠ none) (shared : Bool) : Sound (k.enqueue shared item, items) where
  session := sound.session.stays notEnding (by simpa using notEnding) (by simp) (by simp) rfl
  slots := sound.slots.bind loose (slots_answer slot (by simp)) (by simpa using taken) (fun _ _ => by simp)
    (by simpa using sound.slots.present)

theorem Sound.answer {i : Fin 4} {item : TxItem} (notEnding : k.session ≠ .ending) (free : k.freeSlot = some i)
    (slot : item.slot? = some i) : Sound ((k.takeSlot i).enqueue false item, items) :=
  (sound.takeSlot i).respond notEnding slot (sound.loose free) (by rw [LinkState.window_takeSlot, if_pos rfl]; simp) false

theorem Sound.beginSession {i : Fin 4} {item : TxItem} (idle : k.session = .idle) (free : k.freeSlot = some i)
    (slot : item.slot? = some i) (he : Hello) : Sound (((k.takeSlot i).begun he).enqueue false item, items) := by
  have noRequest := sound.noRequest (Or.inl idle)
  have notEnding : k.session ≠ .ending := by rw [idle]; decide
  have begun : Sound ((k.takeSlot i).begun he, items) :=
    { session := (sound.takeSlot i).session.stays notEnding (fun is => nomatch is) rfl rfl rfl
      slots := (sound.takeSlot i).slots.of_sublist (List.Sublist.refl _) (fun _ _ is => is)
        (fun r mem => by rw [noRequest] at mem; cases mem) }
  exact begun.respond (fun is => nomatch is) slot (sound.loose free)
    (by rw [show ((k.takeSlot i).begun he).window = (k.takeSlot i).window from rfl, LinkState.window_takeSlot, if_pos rfl]; simp) false

theorem Sound.request {rq : Request} (active : k.session = .active) (free : k.freeSlot = some rq.slot)
    (session : rq.session = k.sessionNo) : Sound (k.takeSlot rq.slot, items ++ [.request rq]) := by
  have notEnding : k.session ≠ .ending := by rw [active]; decide
  have count : purgeCount (items ++ [.request rq]) = purgeCount items := by rw [purgeCount_append]; rfl
  refine ⟨sound.session.stays notEnding notEnding rfl rfl count, sound.slots.bind (sound.loose free) (slots_request rfl)
    (by rw [LinkState.window_takeSlot, if_pos rfl]; simp) (fun j ne => ?_) fun r mem => ?_⟩
  · rw [LinkState.window_takeSlot, if_neg fun is => ne is.symm]
  · dsimp only at mem
    rw [List.filterMap_append] at mem
    rcases List.mem_append.1 mem with old | new
    · exact sound.slots.present r old
    · cases List.mem_singleton.1 new
      exact ⟨session, Or.inl active⟩

theorem Sound.notice {item : TxItem} (active : k.session = .active) (slot : item.slot? = none) :
    Sound (k.enqueue false item, items) := by
  have notEnding : k.session ≠ .ending := by rw [active]; decide
  have same : boundSlots (k.enqueue false item, items) = boundSlots (k, items) := by
    simp [boundSlots, slot]
  exact ⟨sound.session.stays notEnding (by simpa using notEnding) (by simp) (by simp) rfl,
    sound.slots.of_sublist (by rw [same]) (fun _ _ is => by simpa using is) (by simpa using sound.slots.present)⟩

theorem Sound.ended (cause : EndCause) (tag : Byte) (held : Option Hello) : Sound (k.ended cause tag held, items) := by
  unfold LinkState.ended
  split
  · rename_i active
    obtain ⟨-, -, noPurge⟩ := sound.session.notEnding (by rw [active]; decide)
    refine ⟨⟨fun _ => Or.inl ⟨rfl, noPurge⟩, fun is => absurd rfl is, fun e is sent => ?_⟩,
      sound.slots.of_sublist (List.Sublist.refl _) (fun _ _ is => is)
        fun r mem => ⟨(sound.slots.present r mem).1, Or.inr ⟨rfl, Option.some_ne_none _⟩⟩⟩
    cases is
    cases sent
  · exact sound

end

end Port
end Sys2Proof.Machine
end

section
/-! The ends of a session and the taking of items, for the sessions and the slots; then every event and every step (R113, R154, R157,
R158, R168, R170). -/

namespace Sys2Proof.Machine

theorem TxItem.slot_eq_some {item : TxItem} {i : Fin 4} : item.slot? = some i ↔ item.cls = .response i := by
  unfold slot?
  split <;> simp [*]

namespace LinkState

variable (k : LinkState)

/-- A teardown leaves no response on the list (R154). -/
theorem slots_takeDown (t : Teardown) : (k.takeDown t).1.txList.filterMap TxItem.slot? = [] := by
  rw [takeDown_txList]
  split <;> rfl

/-- What follows a closing delimiter while a session end is outstanding is not in transmission yet (R154). -/
theorem afterDelimiter_teardown :
    k.afterDelimiter.teardown = k.teardown.map fun e => { e with delimiterSent := true } := by
  unfold afterDelimiter
  split <;> simp [*]

theorem afterDelimiter_silent {k : LinkState} (outstanding : k.teardown ≠ none) (silent : k.tx = none) :
    k.afterDelimiter.tx = none := by
  unfold afterDelimiter
  split
  · exact absurd ‹_› outstanding
  · exact silent

section
variable (x : Transmission) (item : TxItem) (items : List TxItem)

theorem completed_session : (k.completed x item items).session = k.session ∧
    (k.completed x item items).sessionNo = k.sessionNo ∧ (k.completed x item items).heldHello = k.heldHello := by
  unfold completed TxItem.releases
  split <;> simp

theorem completed_teardown :
    (k.completed x item items).teardown = k.teardown.map fun e => { e with delimiterSent := true } := by
  unfold completed TxItem.releases
  split <;> simp [afterDelimiter_teardown]

theorem completed_txList : (k.completed x item items).txList = items := by
  unfold completed TxItem.releases
  split <;> simp

theorem completed_silent {k : LinkState} (outstanding : k.teardown ≠ none) : (k.completed x item items).tx = none := by
  unfold completed TxItem.releases
  split <;> exact afterDelimiter_silent outstanding rfl

/-- The completion releases the slot of its own response alone (R170). -/
theorem completed_window {j : Fin 4} (other : item.slot? ≠ some j) : (k.completed x item items).window[j] = k.window[j] := by
  unfold completed TxItem.releases
  split
  · rename_i i is
    have ne : i ≠ j := fun same => other (TxItem.slot_eq_some.2 (same ▸ is))
    rw [afterDelimiter_window, window_releaseSlot, if_neg ne]
  all_goals rw [afterDelimiter_window]

end
end LinkState

theorem mem_requests {items : List Item} {r : Request} : r ∈ items.filterMap Item.request? ↔ .request r ∈ items := by
  refine List.mem_filterMap.trans ⟨fun ⟨item, mem, is⟩ => ?_, fun mem => ⟨_, mem, rfl⟩⟩
  cases item <;> cases is
  exact mem

namespace Port

/-- A link in no session, with no session end outstanding, that holds what slots it held. -/
theorem Sound.emptied {k k' : LinkState} {items : List Item} (sound : Sound (k, items)) (list : k'.txList = k.txList)
    (window : k'.window = k.window) : SlotsSound (k', []) := by
  have fewer : (boundSlots (k', [])).Sublist (boundSlots (k, items)) := by
    simp only [boundSlots, list]
    exact (List.append_sublist_append_left _).2 (List.nil_sublist _)
  exact sound.slots.of_sublist fewer (fun i _ is => by simpa only [window] using is) fun _ mem => nomatch mem

section
variable {k : LinkState} {items : List Item} (sound : Sound (k, items))
include sound

theorem Sound.charTime : Sound (k.charTime, items) := by
  by_cases sends : ∃ loss c c' more, k.tx = some ⟨loss, c :: c' :: more⟩
  · obtain ⟨loss, c, c', more, tx⟩ := sends
    rw [LinkState.charTime_cons tx]
    split
    · exact sound.of_same rfl rfl rfl rfl rfl rfl fun silent => by rw [tx] at silent; cases silent
    · exact sound
  · rw [LinkState.charTime_last fun loss c c' more tx => sends ⟨loss, c, c', more, tx⟩]
    exact sound

theorem Sound.tearDown {t : Teardown} (outstanding : k.teardown = some t) :
    Sound ((k.takeDown t).1,
      (items ++ (k.stopFrame.2.map TxItem.reports).getD []).filter (Item.stays k.sessionNo) ++ [Item.purge]) := by
  have ending : k.session = .ending := by
    by_contra live
    rw [show k.teardown = none from (sound.session.notEnding live).1] at outstanding
    cases outstanding
  have noPurge : purgeCount items = 0 := by
    rcases sound.session.ending ending with ⟨-, none⟩ | ⟨gone, -⟩
    · exact none
    · rw [show k.teardown = none from gone] at outstanding
      cases outstanding
  generalize reports : (k.stopFrame.2.map TxItem.reports).getD [] = more
  obtain ⟨noRequest, noMore⟩ : more.filterMap Item.request? = [] ∧ purgeCount more = 0 := by
    subst reports
    rcases k.stopFrame.2 with _ | item
    · exact ⟨rfl, rfl⟩
    · exact ⟨filterMap_request_reports item, purgeCount_reports item⟩
  have withdrawn : ((items ++ more).filter (Item.stays k.sessionNo) ++ [Item.purge]).filterMap Item.request? = [] := by
    refine List.eq_nil_iff_forall_not_mem.2 fun r mem => ?_
    have there := mem_requests.1 mem
    simp only [List.mem_append, List.mem_filter, List.mem_singleton, reduceCtorEq, or_false, Item.stays, decide_eq_true_eq] at there
    obtain ⟨placed | report, other⟩ := there
    · exact other (sound.slots.present r (mem_requests.2 placed)).1
    · have none := mem_requests.2 report
      rw [noRequest] at none
      cases none
  have count : purgeCount ((items ++ more).filter (Item.stays k.sessionNo) ++ [Item.purge]) = 1 := by
    have fewer : purgeCount ((items ++ more).filter (Item.stays k.sessionNo)) ≤ purgeCount (items ++ more) :=
      List.filter_sublist.countP_le
    have last : purgeCount [Item.purge] = 1 := rfl
    rw [purgeCount_append, noPurge, noMore] at fewer
    rw [purgeCount_append, last]
    omega
  have slots : boundSlots ((k.takeDown t).1, (items ++ more).filter (Item.stays k.sessionNo) ++ [Item.purge]) = [] := by
    rw [boundSlots, k.slots_takeDown t, withdrawn]
    rfl
  refine ⟨⟨fun _ => Or.inr ⟨k.takeDown_teardown t, count⟩, fun is => absurd (by simpa using ending) is, fun e is => ?_⟩,
    ⟨by rw [slots]; exact List.nodup_nil, fun i mem => ?_, fun r mem => ?_⟩⟩
  · rw [show (k.takeDown t).1.teardown = none from k.takeDown_teardown t] at is
    cases is
  · rw [slots] at mem
    cases mem
  · rw [withdrawn] at mem
    cases mem

theorem Sound.frameCompletes (x : Transmission) {item : TxItem} {more : List TxItem} (list : k.txList = item :: more) :
    Sound (k.completed x item more, items ++ item.reports) := by
  obtain ⟨⟨ending, notEnding, -⟩, slots⟩ := sound
  obtain ⟨session, number, heldHello⟩ := k.completed_session x item more
  have teardown := k.completed_teardown x item more
  have count : purgeCount (items ++ item.reports) = purgeCount items := by
    rw [purgeCount_append, purgeCount_reports, Nat.add_zero]
  have requests : (items ++ item.reports).filterMap Item.request? = items.filterMap Item.request? := by
    rw [List.filterMap_append, filterMap_request_reports, List.append_nil]
  have before : boundSlots (k, items) = item.slot?.toList ++ boundSlots (k.completed x item more, items ++ item.reports) := by
    simp only [boundSlots, list, k.completed_txList, requests, List.filterMap_cons]
    cases item.slot? <;> rfl
  have distinct := slots.distinct
  rw [before] at distinct
  refine ⟨⟨?_, ?_, fun e is _ => ?_⟩, slots.of_sublist ?_ (fun j mem is => ?_) ?_⟩
  · dsimp only at ending ⊢
    rw [session, teardown, count, Option.isSome_map, Option.map_eq_none_iff]
    exact ending
  · dsimp only at notEnding ⊢
    rw [session, teardown, count, heldHello, Option.map_eq_none_iff]
    exact notEnding
  · refine LinkState.completed_silent x item more fun none => ?_
    dsimp only at is
    rw [teardown, none] at is
    cases is
  · rw [before]
    exact List.sublist_append_right _ _
  · have other : item.slot? ≠ some j := fun same => by
      rw [same] at distinct
      exact (List.nodup_cons.1 distinct).1 mem
    dsimp only
    rw [k.completed_window x item more other]
    exact is
  · dsimp only
    rw [requests, session, number, teardown]
    simpa using slots.present

theorem Sound.resetBy (tag : Byte) : Sound (k.resetBy tag, []) := by
  have slots := sound.slots
  unfold LinkState.resetBy
  split
  · rename_i idle
    obtain ⟨teardown, heldHello, -⟩ := sound.session.notEnding (by rw [idle]; decide)
    exact sound_fresh idle teardown heldHello (sound.emptied rfl rfl)
  · exact sound_fresh (by simp) (by simp) (by simp) (slotsSound_of_nil (LinkState.slots_takeDown _ _))
  · split
    · exact sound_fresh rfl (k.takeDown_teardown _) rfl (slotsSound_of_nil (k.slots_takeDown _))
    · exact sound_fresh rfl ‹_› rfl (sound.emptied rfl rfl)

end

/-- The one response of a request: appended in its slot, or discarded with it (R167). -/
theorem Sound.reply {k : LinkState} {items : List Item} {rq : Request} (sound : Sound (k, .request rq :: items)) {item : TxItem}
    (slot : item.slot? = some rq.slot) : Sound (k.handed rq.session item, items) := by
  obtain ⟨rest, loose⟩ := sound.taken
  unfold LinkState.handed
  split
  · rename_i live
    have held : k.window[rq.slot] ≠ none := sound.slots.held _ ((slots_taken rq).mem_iff.2 List.mem_cons_self)
    exact rest.respond (by rw [live.1]; decide) slot loose held false
  · rw [TxItem.slot_eq_some.1 slot]
    dsimp only
    split
    · exact rest.releaseSlot loose
    · exact rest

theorem Sound.report {k : LinkState} {item : Item} {items : List Item} (sound : Sound (k, item :: items))
    (noRequest : item.request? = none) (noPurge : item ≠ .purge) : Sound (k, items) := by
  have requests : (item :: items).filterMap Item.request? = items.filterMap Item.request? := List.filterMap_cons_none noRequest
  have count : purgeCount (item :: items) = purgeCount items := List.countP_cons_of_neg (by simpa using noPurge)
  obtain ⟨⟨ending, notEnding, delimiter⟩, ⟨distinct, held, present⟩⟩ := sound
  dsimp only [boundSlots] at ending notEnding distinct held present
  rw [count] at ending notEnding
  rw [requests] at distinct held present
  exact ⟨⟨ending, notEnding, delimiter⟩, ⟨distinct, held, present⟩⟩

/-- A purge item stands only on the intake of an ENDING link that has been taken down, and is the only one there (R154, R157). -/
theorem Sound.purge {k : LinkState} {items : List Item} (sound : Sound (k, .purge :: items)) :
    Sound (if k.session = .ending then k.left else k, items) := by
  have one : purgeCount (Item.purge :: items) = purgeCount items + 1 := List.countP_cons_of_pos rfl
  have ending : k.session = .ending := by
    by_contra live
    have noPurge : purgeCount (Item.purge :: items) = 0 := (sound.session.notEnding live).2.2
    omega
  obtain ⟨gone, noPurge⟩ : k.teardown = none ∧ purgeCount items = 0 := by
    rcases sound.session.ending ending with ⟨-, none⟩ | ⟨gone, once⟩
    · exact absurd (one.symm.trans none) (Nat.succ_ne_zero _)
    · exact ⟨gone, Nat.succ.inj (one.symm.trans once)⟩
  have noRequest : items.filterMap Item.request? = [] := sound.noRequest (Or.inr ⟨ending, gone⟩)
  rw [if_pos ending]
  refine ⟨⟨fun is => (nomatch is), fun _ => ⟨gone, rfl, noPurge⟩, fun e is => ?_⟩,
    sound.slots.of_sublist (List.Sublist.refl _) (fun _ _ is => is) fun r mem => by rw [noRequest] at mem; cases mem⟩
  rw [show k.left.teardown = none from gone] at is
  cases is

/-- Every event at a link keeps its session and its slots sound. -/
theorem Event.sound {p q : Port} (event : Event p q) (sound : p.Sound) : q.Sound := by
  cases event with
  | pinReset => exact sound_fresh rfl rfl rfl (slotsSound_of_nil rfl)
  | takeCharacter k _ v => rw [k.takeCharacter_receiver v]; exact sound.of_same rfl rfl rfl rfl rfl rfl id
  | receiveError | emptyBuffer | settled | overrun => exact sound.of_same rfl rfl rfl rfl rfl rfl id
  | tick k => rw [Hub.tickAtLink_eq]; exact sound.of_same rfl rfl rfl rfl rfl rfl id
  | charTime => exact sound.charTime
  | restartKeepalive k => exact sound.of_same (by simp) (by simp) (by simp) (by simp) (by simp) (by simp) fun is => by simpa using is
  | holdHello _ held ending => exact sound.holdHello held ending
  | takeSlot => exact sound.takeSlot _
  | answer _ notEnding free slot => exact sound.answer notEnding free slot
  | beginSession _ idle free slot => exact sound.beginSession idle free slot _
  | request _ active free session => exact sound.request active free session
  | endSession _ _ cause tag held => exact sound.ended cause tag held
  | tearDown _ outstanding => exact sound.tearDown outstanding
  | frameCompletes _ _ list => exact sound.frameCompletes _ list
  | notice _ active slot => exact sound.notice active slot
  | reply _ _ _ slot => exact sound.reply slot
  | report _ _ noRequest noPurge => exact sound.report noRequest noPurge
  | purge => exact sound.purge
  | hubReset _ _ tag => exact sound.resetBy tag

end Port

/-- Settles O59: link by link, every event keeps the session, its end and the slots sound. -/
theorem stepKeepsSessionsAndSlotsSound : Obligations.StepKeepsSessionsAndSlotsSound := fun s t sessions slots run =>
  t.toHub.sound_iff.2 (step_keeps (P := Port.Sound) (fun _ _ event => event.sound) run (s.toHub.sound_iff.1 ⟨sessions, slots⟩))

end Sys2Proof.Machine
end

section
/-! Sessions at their link: the frames that find no slot (R141, R145, R163), the frames that begin and end a session
(R142 to R146), and the held HELLO that a purge completion takes up (R157). -/

namespace Sys2Proof.Machine

/-! ### The HELLO that a frame spells (R130, R142, R179) -/

theorem ReqKind.ofCode_hello_iff {b : Byte} : ReqKind.ofCode b = some .hello ↔ b = 0x01 := by
  constructor
  · intro is
    have code : (ReqKind.hello.code == b) = true := List.find?_some (p := fun k => ReqKind.code k == b) is
    exact (eq_of_beq code).symm
  · rintro rfl
    rfl

namespace RxFrame

variable (f : RxFrame)

/-- The fields of a frame read as a HELLO's; in a well-formed one the label is all that stands behind its length byte. -/
def toHello : Hello :=
  { tag := f.tag, version := (f.body.getD 0 0).toNat,
    interval := 256 * (f.body.getD 1 0).toNat + (f.body.getD 2 0).toNat, label := f.body.drop 4 }

/-- The frame passes the header checks as a HELLO. -/
abbrev IsHello : Prop := f.kind = 0x01 ∧ f.status = 0 ∧ f.flags = 0 ∧ bodyWellFormed .hello f.body = true

variable {f}

theorem requestOf_toHello (ok : bodyWellFormed .hello f.body = true) : requestOf .hello f.tag f.body = .hello f.toHello := by
  obtain ⟨-, -, length⟩ := (bodyWellFormed_named (r := .hello) rfl f.body).1 ok
  have behind : (f.body.drop 4).length ≤ field f.body 3 := by
    rw [List.length_drop, length]
    exact Nat.sub_le_of_le_add (Nat.add_comm _ _).le
  have label : fieldBytes f.body 4 (field f.body 3) = f.body.drop 4 := List.take_of_length_le behind
  rw [requestOf, label]
  rfl

theorem verdict_of_hello (is : f.IsHello) : f.verdict = .wellFormed (.hello f.toHello) := by
  obtain ⟨kind, status, flags, ok⟩ := is
  rw [verdict_of_wellFormed (ReqKind.ofCode_hello_iff.2 kind) status flags ok, requestOf_toHello ok]

theorem verdict_of_not_hello (not : ¬ f.IsHello) (he : Hello) : f.verdict ≠ .wellFormed (.hello he) := by
  intro is
  rcases kind : ReqKind.ofCode f.kind with _ | r
  · rw [verdict_of_unknown kind] at is
    cases is
  by_cases bad : f.status ≠ 0 ∨ f.flags ≠ 0 ∨ bodyWellFormed r f.body = false
  · rw [verdict_of_malformed kind bad] at is
    cases is
  obtain ⟨status, flags, ok⟩ : f.status = 0 ∧ f.flags = 0 ∧ bodyWellFormed r f.body = true := by simpa using bad
  rw [verdict_of_wellFormed kind status flags ok] at is
  by_cases hello : r = .hello
  · subst hello
    exact not ⟨ReqKind.ofCode_hello_iff.1 kind, status, flags, ok⟩
  · exact requestOf_ne_hello hello f.tag f.body he (Verdict.wellFormed.inj is)

theorem command_of_hello (kind : f.kind = 0x01) (l : Link) : f.command l = .hello l := by
  rw [command, ReqKind.ofCode_hello_iff.2 kind]

/-- The checks on a HELLO's fields, read off its frame (R142). -/
theorem toHello_acceptable_iff : f.toHello.acceptable = true ↔
    f.body.getD 0 0 = 1 ∧ (f.toHello.interval = 0 ∨ (100 ≤ f.toHello.interval ∧ f.toHello.interval ≤ 60000)) := by
  have version : f.toHello.version = 1 ↔ f.body.getD 0 0 = 1 := BitVec.toNat_inj (y := (1 : Byte))
  simp only [Hello.acceptable, Bool.and_eq_true, Bool.or_eq_true, decide_eq_true_eq, version]

end RxFrame

/-! ### The session's own changes of a link's record (R143, R154) -/

namespace LinkState

variable (k : LinkState)

theorem begun_eq (he : Hello) : k.begun he =
    { k with session := .active, sessionNo := if k.sessionNo < 255 then k.sessionNo + 1 else 1, label := he.label,
             keepalive := he.interval, keepaliveCount := if he.interval = 0 then none else some he.interval,
             sessionsBegun := min (k.sessionsBegun + 1) 65535 } := by
  rw [begun, saturate16_eq]
  rfl

theorem overrun_eq : k.overrun = { k with overruns := min (k.overruns + 1) 65535, loss := true } := by
  rw [overrun, saturate16_eq]

variable {k}

theorem ended_of_active (active : k.session = .active) (cause : EndCause) (tag : Byte) (held : Option Hello) :
    k.ended cause tag held =
      { k with session := .ending, keepaliveCount := none, heldHello := held, teardown := some ⟨cause, tag, false⟩ } :=
  if_pos active

end LinkState

namespace Hub

variable {h : Hub} {l : Link} {i : Fin 4} {f : RxFrame} {he : Hello}

/-! ### A good frame that finds no slot to take (R141, R145) -/

theorem goodFrameEnding_hello (verdict : f.verdict = .wellFormed (.hello he)) :
    h.goodFrameEnding l f = h.modLink l fun k => { k with heldHello := some he } := by
  simp only [goodFrameEnding, verdict]

theorem goodFrameEnding_other (noHello : ∀ he, f.verdict ≠ .wellFormed (.hello he)) : h.goodFrameEnding l f = h := by
  unfold goodFrameEnding
  split
  · exact absurd ‹_› (noHello _)
  all_goals rfl

/-! ### HELLO and BYE in a slot (R142, R144, R146) -/

theorem serve_hello (verdict : f.verdict = .wellFormed (.hello he)) : h.serve l i f = h.serveHello l i f he := by
  simp only [serve, verdict]

theorem serveHello_of_inactive (inactive : (h.link l).session ≠ .active) : h.serveHello l i f he = h.answerHello l i he :=
  if_neg inactive

/-- An ACTIVE link ends its session on a HELLO whose fields pass, and holds it. -/
theorem serveHello_of_acceptable (active : (h.link l).session = .active) (acceptable : he.acceptable = true) :
    h.serveHello l i f he = h.endSession l .rehello 0 (some he) := by
  rw [serveHello, if_pos active, if_pos acceptable]

/-- Whether IDLE or ACTIVE, a link answers OUT_OF_RANGE to a HELLO whose fields fail. -/
theorem serveHello_of_unacceptable (kind : f.kind = ReqKind.hello.code) (tag : f.tag = he.tag)
    (unacceptable : he.acceptable = false) : h.serveHello l i f he = h.linkAnswer l i f.kind f.tag .outOfRange [] := by
  simp only [serveHello, answerHello, unacceptable, Bool.false_eq_true, if_false, kind, tag, ite_self]

theorem serve_bye (verdict : f.verdict = .wellFormed .bye) (active : (h.link l).session = .active) :
    h.serve l i f = h.endSession l .bye f.tag none := by
  simp only [serve, verdict, serveBye, if_pos active]

/-! ### The answer to a HELLO in IDLE (R142, R143) -/

/-- The response to a HELLO that holds slot `i`, as it stands on the transmit list (R166). -/
def helloResponse (i : Fin 4) (he : Hello) (code : ResultCode) (body : List Byte) : TxItem :=
  { cls := .response i, frame := { kind := 0x81, tag := he.tag, status := code.byte, body := body },
    session := none, msg := none }

theorem linkAnswer_setLink_hello (h : Hub) (l : Link) (k : LinkState) (i : Fin 4) (he : Hello) (code : ResultCode) (body : List Byte) :
    (h.setLink l k).linkAnswer l i ReqKind.hello.code he.tag code body =
      h.setLink l (k.enqueue false (helloResponse i he code body)) := by
  rw [linkAnswer, modLink, link_setLink_self, setLink_setLink]
  rfl

/-- The session begins before WELCOME is made, so WELCOME carries the new number. -/
theorem answerHello_of_acceptable (h : Hub) (l : Link) (k : LinkState) (i : Fin 4) (acceptable : he.acceptable = true) :
    (h.setLink l k).answerHello l i he =
      h.setLink l ((k.begun he).enqueue false
        (helloResponse i he .ok (welcomeBody (nextSessionNo k.sessionNo) k.manage h.tick))) := by
  have begins : (h.setLink l k).modLink l (fun k => k.begun he) = h.setLink l (k.begun he) := by
    rw [modLink, link_setLink_self, setLink_setLink]
  have welcome : (h.setLink l k).beginSession l i he =
      ((h.setLink l k).modLink l fun k => k.begun he).linkAnswer l i ReqKind.hello.code he.tag .ok
        (welcomeBody (((h.setLink l k).modLink l fun k => k.begun he).link l).sessionNo
          (((h.setLink l k).modLink l fun k => k.begun he).link l).manage h.tick) := rfl
  rw [answerHello, if_pos acceptable, welcome, begins, linkAnswer_setLink_hello, link_setLink_self]
  rfl

theorem answerHello_of_unacceptable (h : Hub) (l : Link) (k : LinkState) (i : Fin 4) (unacceptable : he.acceptable = false) :
    (h.setLink l k).answerHello l i he = h.setLink l (k.enqueue false (helloResponse i he .outOfRange [])) := by
  rw [answerHello, unacceptable, if_neg Bool.false_ne_true, linkAnswer_setLink_hello]

/-! ### The end of ENDING (R157) -/

theorem purgeCompletion_of_ending (ending : (h.link l).session = .ending) : h.purgeCompletion l = h.leaveEnding l :=
  if_pos ending

theorem leaveEnding_of_none (none : (h.link l).heldHello = none) : h.leaveEnding l = h.setLink l (h.link l).left := by
  simp only [leaveEnding, none]
  rfl

/-- A held HELLO takes the lowest free slot of the link, IDLE by then. -/
theorem leaveEnding_of_held (held : (h.link l).heldHello = some he) (lowest : (h.link l).left.LowestFree i) :
    h.leaveEnding l = (h.setLink l ((h.link l).left.takeSlot i)).answerHello l i he := by
  have free : (h.link l).left.freeSlot = some i := LinkState.freeSlot_of_lowestFree lowest
  have left : (h.modLink l fun k => { k with session := .idle, heldHello := none }) = h.setLink l (h.link l).left := rfl
  simp only [leaveEnding, held]
  rw [left, link_setLink_self, free]
  dsimp only
  rw [modLink, link_setLink_self, setLink_setLink]

end Hub

/-! ### The statements -/

/-- Settles O18: with a full window by the overrun, on an ENDING link by whether the frame is a HELLO. -/
theorem framesThatFindNoSlot : Obligations.FramesThatFindNoSlot := by
  constructor
  · intro s l f h k closes notEnding full
    rw [exec_command closes, Hub.goodFrame_overrun f notEnding full, LinkState.overrun_eq]
    rfl
  · intro s l f h k closes ending
    have run : exec (f.command l) s = .next (s.withHub ((h.modLink l fun k => { k with buffer := [] }).goodFrameEnding l f)) := by
      rw [exec_command closes, Hub.goodFrame_ending f ending]
    clear_value h
    rw [run]
    by_cases hello : f.IsHello
    · rw [if_pos hello, Hub.goodFrameEnding_hello (RxFrame.verdict_of_hello hello), Hub.modLink_modLink]
      rfl
    · rw [if_neg hello, Hub.goodFrameEnding_other (RxFrame.verdict_of_not_hello hello)]
      rfl

/-- Settles O19: a HELLO served in its slot, answered in IDLE by its fields and in ACTIVE where they fail. -/
theorem helloBeginsASessionOrIsOutOfRange : Obligations.HelloBeginsASessionOrIsOutOfRange := by
  constructor
  · intro s l f i h k interval no closes idle lowest kind status flags ok version range
    have acceptable : f.toHello.acceptable = true := RxFrame.toHello_acceptable_iff.2 ⟨version, range⟩
    have run : exec (.hello l) s = .next (s.withHub ((h.setLink l (k.accepted i)).serveHello l i f f.toHello)) := by
      rw [← RxFrame.command_of_hello kind, exec_served closes (by rw [idle]; decide) lowest,
        Hub.serve_hello (RxFrame.verdict_of_hello ⟨kind, status, flags, ok⟩)]
    clear_value h
    have inactive : ((h.setLink l (k.accepted i)).link l).session ≠ .active := by
      rw [Hub.link_setLink_self, LinkState.accepted_session, idle]; decide
    rw [run, Hub.serveHello_of_inactive inactive, Hub.answerHello_of_acceptable h l _ i acceptable, LinkState.begun_eq,
      LinkState.answer, kind]
    rfl
  · intro s l f i h k interval closes notEnding lowest kind status flags ok bad
    have unacceptable : f.toHello.acceptable = false :=
      Bool.eq_false_iff.2 fun passes =>
        have ⟨version, range⟩ := RxFrame.toHello_acceptable_iff.1 passes
        bad.elim (fun wrong => wrong version) fun wrong => wrong range
    rw [← RxFrame.command_of_hello kind, exec_served closes notEnding lowest,
      Hub.serve_hello (RxFrame.verdict_of_hello ⟨kind, status, flags, ok⟩),
      Hub.serveHello_of_unacceptable kind rfl unacceptable, Hub.linkAnswer_setLink]

/-- Settles O20: the frame keeps its slot, and the session ends in the accepted record. -/
theorem byeAndHelloEndTheSession : Obligations.ByeAndHelloEndTheSession := by
  intro s l f i h k interval closes active lowest status flags
  have served : exec (f.command l) s = .next (s.withHub ((h.setLink l (k.accepted i)).serve l i f)) :=
    exec_served closes (by rw [active]; decide) lowest
  clear_value h
  have active' : ((h.setLink l (k.accepted i)).link l).session = .active := by simpa using active
  have ends (cause : EndCause) (tag : Byte) (held : Option Hello) :
      (h.setLink l (k.accepted i)).endSession l cause tag held =
        h.setLink l { k.accepted i with session := .ending, keepaliveCount := none, heldHello := held,
                                        teardown := some ⟨cause, tag, false⟩ } := by
    rw [Hub.endSession_eq, Hub.link_setLink_self, Hub.setLink_setLink, LinkState.ended_of_active (k := k.accepted i) active]
  refine ⟨fun kind body => ?_, fun kind ok version range => ?_⟩
  · have bye : ReqKind.ofCode f.kind = some .bye := by rw [kind]; rfl
    have verdict : f.verdict = .wellFormed .bye := RxFrame.verdict_of_wellFormed bye status flags (by rw [body]; rfl)
    have command : f.command l = .bye l := by rw [RxFrame.command, bye]
    rw [← command, served, Hub.serve_bye verdict active', ends]
  · have acceptable : f.toHello.acceptable = true := RxFrame.toHello_acceptable_iff.2 ⟨version, range⟩
    have spelled : f.toHello = { tag := f.tag, version := 1, interval := interval, label := f.body.drop 4 } := by
      rw [RxFrame.toHello, version]
      rfl
    rw [← RxFrame.command_of_hello kind, served, Hub.serve_hello (RxFrame.verdict_of_hello ⟨kind, status, flags, ok⟩),
      Hub.serveHello_of_acceptable active' acceptable, ends, spelled]

/-- Settles O46: the link leaves ENDING, and a held HELLO is answered in its slot as in IDLE. -/
theorem purgeCompletionTakesUpTheHello : Obligations.PurgeCompletionTakesUpTheHello := by
  intro h l ending k
  rw [Hub.purgeCompletion_of_ending ending]
  refine ⟨Hub.leaveEnding_of_none, fun he i held lowest => ?_⟩
  rw [Hub.leaveEnding_of_held held lowest]
  refine ⟨fun acceptable => ?_, fun unacceptable => ?_⟩
  · rw [Hub.answerHello_of_acceptable h l _ i acceptable, LinkState.begun_eq]
    rfl
  · rw [Hub.answerHello_of_unacceptable h l _ i unacceptable]
    rfl

end Sys2Proof.Machine
end

section
/-! Engine output and the link's own answers, appended or discarded (R110, R118, R166, R167). -/

namespace Sys2Proof.Machine

namespace LinkState

variable {k : LinkState} {session : Nat} {item : TxItem}

/-- Output of the link's present ACTIVE session is appended. -/
theorem handed_of_present (present : k.session = .active ∧ k.sessionNo = session) :
    k.handed session item = k.enqueue false item := if_pos present

/-- A response to any other session is discarded, with its slot if a request of that session still holds it. -/
theorem handed_response_of_other (other : ¬ (k.session = .active ∧ k.sessionNo = session)) {i : Fin 4}
    (response : item.cls = .response i) :
    k.handed session item = if k.window[i] = some session then k.releaseSlot i else k := by
  simp only [handed, if_neg other, response]

/-- A notice to any other session is discarded without a trace. -/
theorem handed_notice_of_other (other : ¬ (k.session = .active ∧ k.sessionNo = session)) (notice : item.slot? = none) :
    k.handed session item = k := by
  rw [handed, if_neg other]
  split
  · have slot : item.slot? = some _ := TxItem.slot_eq_some.2 ‹_›
    cases notice.symm.trans slot
  all_goals rfl

end LinkState

/-- Settles O26: the link's record by whether the frame's session is its present one, a discarded frame by its class; then what
each frame carries, a response's kind byte by the request it answers (R177). -/
theorem engineOutputIsAppendedOrDiscarded : Obligations.EngineOutputIsAppendedOrDiscarded := by
  refine ⟨fun h l session item => ⟨fun present => ?appended, fun other => ?discarded⟩,
    fun h l i kind tag code body => ?linkAnswer, fun h l rq code body msg => ?reply, fun h w kind body msg => ?notice⟩
  case appended => rw [Hub.handOver_eq, Hub.modLink, LinkState.handed_of_present present]
  case discarded =>
    rw [Hub.handOver_eq]
    refine congrArg (h.setLink l) ?_
    obtain ⟨cls, frame, itemSession, msg⟩ := item
    cases cls with
    | response i => exact LinkState.handed_response_of_other other rfl
    | waiterNotice stamp => exact LinkState.handed_notice_of_other other rfl
    | sessionNotice => exact LinkState.handed_notice_of_other other rfl
  case linkAnswer => rw [Hub.linkAnswer, Hub.modLink, responseKind]
  case reply =>
    obtain ⟨tag, session, slot, request⟩ := rq
    cases request <;> rfl
  case notice => rw [Hub.notice]

end Sys2Proof.Machine
end

section
/-! A step with a command waiting (log entries 20 and 21). -/

namespace Sys2Proof.Machine

/-- With a command at the front of the queue a step is that command on the rest of it; `step_idle` is the other case. -/
theorem step_of_pending_cons {c : Instr} {rest : List Instr} {s : State} (front : s.pending = c :: rest) :
    step s = exec c { s with pending := rest } := by
  simp only [step, front]

/-- Settles O1: the queue of the state is `c :: rest`, and taking `c` overwrites it, so only the hub of `s` is left. -/
theorem stepTakesTheFrontCommand : Obligations.StepTakesTheFrontCommand :=
  fun c rest s => step_of_pending_cons (s := { s with pending := c :: rest }) rfl

end Sys2Proof.Machine
end
